-- ==== Sys2Proof/Word.lean ====
section
/-! DEFINITION. The word types of the CHIP-8 core (spec/00_scope.md R4, R5): everything is unsigned, bit 0 is the least significant bit. -/

namespace Sys2Proof

/-- An 8-bit value: a V register, a timer, a memory cell, the immediate `nn`. -/
abbrev Byte := BitVec 8

/-- A 16-bit value: PC, I, a call-stack entry, an instruction word. -/
abbrev Word := BitVec 16

/-- A 12-bit value: the immediate `nnn`. -/
abbrev Addr12 := BitVec 12

/-- A 4-bit value: the row count `n` of DRW, or an opcode nibble. -/
abbrev Nibble := BitVec 4

/-- The number of a general register, 0 to 15 (R10); `15` names VF. -/
abbrev Reg := Fin 16

/-- The number of a key of the keypad, 0x0 to 0xF (R22, R23). -/
abbrev Key := Fin 16

end Sys2Proof
end

