-- ==== Sys2Proof/Syntax.lean ====
section
/-! DEFINITION. The instruction set of spec/30_encoding.md R65: one constructor for each of the 34 rows of spec/opcode_table.json, in the table's order. -/

namespace Sys2Proof

/-- The 34 instructions (R65). A word that matches no row is UNKNOWN (R66) and is no term of this type. -/
inductive Instr where
  /-- 00E0 CLS -/
  | cls
  /-- 00EE RET -/
  | ret
  /-- 1nnn JP addr -/
  | jpAddr (nnn : Addr12)
  /-- 2nnn CALL addr -/
  | callAddr (nnn : Addr12)
  /-- 3xnn SE Vx,byte -/
  | seVxByte (x : Reg) (nn : Byte)
  /-- 4xnn SNE Vx,byte -/
  | sneVxByte (x : Reg) (nn : Byte)
  /-- 5xy0 SE Vx,Vy -/
  | seVxVy (x y : Reg)
  /-- 9xy0 SNE Vx,Vy -/
  | sneVxVy (x y : Reg)
  /-- 6xnn LD Vx,byte -/
  | ldVxByte (x : Reg) (nn : Byte)
  /-- 7xnn ADD Vx,byte -/
  | addVxByte (x : Reg) (nn : Byte)
  /-- 8xy0 LD Vx,Vy -/
  | ldVxVy (x y : Reg)
  /-- 8xy1 OR Vx,Vy -/
  | orVxVy (x y : Reg)
  /-- 8xy2 AND Vx,Vy -/
  | andVxVy (x y : Reg)
  /-- 8xy3 XOR Vx,Vy -/
  | xorVxVy (x y : Reg)
  /-- 8xy4 ADD Vx,Vy -/
  | addVxVy (x y : Reg)
  /-- 8xy5 SUB Vx,Vy -/
  | subVxVy (x y : Reg)
  /-- 8xy7 SUBN Vx,Vy -/
  | subnVxVy (x y : Reg)
  /-- 8xy6 SHR Vx{,Vy} -/
  | shrVxVy (x y : Reg)
  /-- 8xyE SHL Vx{,Vy} -/
  | shlVxVy (x y : Reg)
  /-- Annn LD I,addr -/
  | ldIAddr (nnn : Addr12)
  /-- Bnnn JP V0,addr; its x field is the top nibble of `nnn` (R62) -/
  | jpV0Addr (nnn : Addr12)
  /-- Cxnn RND Vx,byte -/
  | rndVxByte (x : Reg) (nn : Byte)
  /-- Dxyn DRW Vx,Vy,n -/
  | drwVxVyN (x y : Reg) (n : Nibble)
  /-- Ex9E SKP Vx -/
  | skpVx (x : Reg)
  /-- ExA1 SKNP Vx -/
  | sknpVx (x : Reg)
  /-- Fx07 LD Vx,DT -/
  | ldVxDt (x : Reg)
  /-- Fx15 LD DT,Vx -/
  | ldDtVx (x : Reg)
  /-- Fx18 LD ST,Vx -/
  | ldStVx (x : Reg)
  /-- Fx1E ADD I,Vx -/
  | addIVx (x : Reg)
  /-- Fx0A LD Vx,K -/
  | ldVxK (x : Reg)
  /-- Fx29 LD F,Vx -/
  | ldFVx (x : Reg)
  /-- Fx33 LD B,Vx -/
  | ldBVx (x : Reg)
  /-- Fx55 LD [I],Vx -/
  | ldMemVx (x : Reg)
  /-- Fx65 LD Vx,[I] -/
  | ldVxMem (x : Reg)
deriving DecidableEq, Repr

end Sys2Proof
end

