-- ==== Sys2Proof/Decode.lean ====
section
/-! DEFINITION. Fields, decoder and encoder (spec/30_encoding.md R60 to R69), and R65's table of match and mask. -/

namespace Sys2Proof

/-- The six fields the decoder derives from every word (R61). -/
structure Fields where
  op : Nibble
  x : Reg
  y : Reg
  n : Nibble
  nn : Byte
  nnn : Addr12
deriving DecidableEq, Repr

/-- "All five derived fields are computed unconditionally" (R61). -/
def fieldsOf (w : Word) : Fields where
  op := w.extractLsb' 12 4
  x := (w.extractLsb' 8 4).toFin
  y := (w.extractLsb' 4 4).toFin
  n := w.extractLsb' 0 4
  nn := w.extractLsb' 0 8
  nnn := w.extractLsb' 0 12

/-- The x field of an `nnn` immediate: bits 11:8 of the word are the top nibble of nnn (R62, R87). -/
def xOfNnn (nnn : Addr12) : Reg :=
  (nnn.extractLsb' 8 4).toFin

/-- The selection of R64 and R69, a total function of the word; `none` is UNKNOWN (R66). -/
def decodeWord (w : Word) : Option Instr :=
  let f := fieldsOf w
  match f.op with
  | 0x0#4 => if w = 0x00E0#16 then some .cls else if w = 0x00EE#16 then some .ret else none
  | 0x1#4 => some (.jpAddr f.nnn)
  | 0x2#4 => some (.callAddr f.nnn)
  | 0x3#4 => some (.seVxByte f.x f.nn)
  | 0x4#4 => some (.sneVxByte f.x f.nn)
  | 0x5#4 => if f.n = 0x0#4 then some (.seVxVy f.x f.y) else none
  | 0x6#4 => some (.ldVxByte f.x f.nn)
  | 0x7#4 => some (.addVxByte f.x f.nn)
  | 0x8#4 =>
    match f.n with
    | 0x0#4 => some (.ldVxVy f.x f.y)
    | 0x1#4 => some (.orVxVy f.x f.y)
    | 0x2#4 => some (.andVxVy f.x f.y)
    | 0x3#4 => some (.xorVxVy f.x f.y)
    | 0x4#4 => some (.addVxVy f.x f.y)
    | 0x5#4 => some (.subVxVy f.x f.y)
    | 0x6#4 => some (.shrVxVy f.x f.y)
    | 0x7#4 => some (.subnVxVy f.x f.y)
    | 0xE#4 => some (.shlVxVy f.x f.y)
    | _ => none
  | 0x9#4 => if f.n = 0x0#4 then some (.sneVxVy f.x f.y) else none
  | 0xA#4 => some (.ldIAddr f.nnn)
  | 0xB#4 => some (.jpV0Addr f.nnn)
  | 0xC#4 => some (.rndVxByte f.x f.nn)
  | 0xD#4 => some (.drwVxVyN f.x f.y f.n)
  | 0xE#4 =>
    match f.nn with
    | 0x9E#8 => some (.skpVx f.x)
    | 0xA1#8 => some (.sknpVx f.x)
    | _ => none
  | _ => -- the one nibble left, op = 0xF
    match f.nn with
    | 0x07#8 => some (.ldVxDt f.x)
    | 0x0A#8 => some (.ldVxK f.x)
    | 0x15#8 => some (.ldDtVx f.x)
    | 0x18#8 => some (.ldStVx f.x)
    | 0x1E#8 => some (.addIVx f.x)
    | 0x29#8 => some (.ldFVx f.x)
    | 0x33#8 => some (.ldBVx f.x)
    | 0x55#8 => some (.ldMemVx f.x)
    | 0x65#8 => some (.ldVxMem f.x)
    | _ => none

/-- Why the byte decoder gives no instruction. -/
inductive Reject where
  /-- Fewer than the two bytes of an instruction (R62). -/
  | truncated
  /-- The word `w` is UNKNOWN (R66). -/
  | unknown (w : Word)
deriving DecidableEq, Repr

/-- Two bytes as the word they store, big-endian (R42): the byte at the lower address is bits 15:8. -/
def wordOfBytes (hi lo : Byte) : Word :=
  hi ++ lo

/-- The byte decoder, total on any bytes: the instruction and the bytes after it, or the reason it gives none. -/
def decode : List Byte → Except Reject (Instr × List Byte)
  | hi :: lo :: rest =>
    match decodeWord (wordOfBytes hi lo) with
    | some i => .ok (i, rest)
    | none => .error (.unknown (wordOfBytes hi lo))
  | _ => .error .truncated

/-- A word of format NNN (R62). -/
def wordNNN (op : Nibble) (nnn : Addr12) : Word :=
  op ++ nnn

/-- A word of format XNN (R62). -/
def wordXNN (op : Nibble) (x : Reg) (nn : Byte) : Word :=
  op ++ (BitVec.ofFin x : Nibble) ++ nn

/-- A word of format XY or XYN (R62). -/
def wordXYN (op : Nibble) (x y : Reg) (n : Nibble) : Word :=
  op ++ (BitVec.ofFin x : Nibble) ++ (BitVec.ofFin y : Nibble) ++ n

/-- The word of an instruction, from the encodings of R65. -/
def encodeWord : Instr → Word
  | .cls => 0x00E0#16
  | .ret => 0x00EE#16
  | .jpAddr nnn => wordNNN 0x1#4 nnn
  | .callAddr nnn => wordNNN 0x2#4 nnn
  | .seVxByte x nn => wordXNN 0x3#4 x nn
  | .sneVxByte x nn => wordXNN 0x4#4 x nn
  | .seVxVy x y => wordXYN 0x5#4 x y 0x0#4
  | .sneVxVy x y => wordXYN 0x9#4 x y 0x0#4
  | .ldVxByte x nn => wordXNN 0x6#4 x nn
  | .addVxByte x nn => wordXNN 0x7#4 x nn
  | .ldVxVy x y => wordXYN 0x8#4 x y 0x0#4
  | .orVxVy x y => wordXYN 0x8#4 x y 0x1#4
  | .andVxVy x y => wordXYN 0x8#4 x y 0x2#4
  | .xorVxVy x y => wordXYN 0x8#4 x y 0x3#4
  | .addVxVy x y => wordXYN 0x8#4 x y 0x4#4
  | .subVxVy x y => wordXYN 0x8#4 x y 0x5#4
  | .subnVxVy x y => wordXYN 0x8#4 x y 0x7#4
  | .shrVxVy x y => wordXYN 0x8#4 x y 0x6#4
  | .shlVxVy x y => wordXYN 0x8#4 x y 0xE#4
  | .ldIAddr nnn => wordNNN 0xA#4 nnn
  | .jpV0Addr nnn => wordNNN 0xB#4 nnn
  | .rndVxByte x nn => wordXNN 0xC#4 x nn
  | .drwVxVyN x y n => wordXYN 0xD#4 x y n
  | .skpVx x => wordXNN 0xE#4 x 0x9E#8
  | .sknpVx x => wordXNN 0xE#4 x 0xA1#8
  | .ldVxDt x => wordXNN 0xF#4 x 0x07#8
  | .ldDtVx x => wordXNN 0xF#4 x 0x15#8
  | .ldStVx x => wordXNN 0xF#4 x 0x18#8
  | .addIVx x => wordXNN 0xF#4 x 0x1E#8
  | .ldVxK x => wordXNN 0xF#4 x 0x0A#8
  | .ldFVx x => wordXNN 0xF#4 x 0x29#8
  | .ldBVx x => wordXNN 0xF#4 x 0x33#8
  | .ldMemVx x => wordXNN 0xF#4 x 0x55#8
  | .ldVxMem x => wordXNN 0xF#4 x 0x65#8

/-- The high byte of a word, the one stored at the lower address (R42). -/
def highByte (w : Word) : Byte :=
  w.extractLsb' 8 8

/-- The low byte of a word. -/
def lowByte (w : Word) : Byte :=
  w.extractLsb' 0 8

/-- The two bytes of an instruction as memory holds them (R42). -/
def encode (i : Instr) : List Byte :=
  [highByte (encodeWord i), lowByte (encodeWord i)]

/-- One row of R65's table: `w` selects it when `w &&& mask = pattern`. -/
structure OpcodeRow where
  /-- The row's number in the table, 1 to 34. -/
  number : Nat
  pattern : Word
  mask : Word
deriving DecidableEq, Repr

/-- The columns "match" and "mask" of R65, in the table's order. -/
def opcodeTable : List OpcodeRow :=
  [⟨1, 0x00E0, 0xFFFF⟩, ⟨2, 0x00EE, 0xFFFF⟩, ⟨3, 0x1000, 0xF000⟩, ⟨4, 0x2000, 0xF000⟩, ⟨5, 0x3000, 0xF000⟩,
    ⟨6, 0x4000, 0xF000⟩, ⟨7, 0x5000, 0xF00F⟩, ⟨8, 0x9000, 0xF00F⟩, ⟨9, 0x6000, 0xF000⟩, ⟨10, 0x7000, 0xF000⟩] ++
  [⟨11, 0x8000, 0xF00F⟩, ⟨12, 0x8001, 0xF00F⟩, ⟨13, 0x8002, 0xF00F⟩, ⟨14, 0x8003, 0xF00F⟩, ⟨15, 0x8004, 0xF00F⟩,
    ⟨16, 0x8005, 0xF00F⟩, ⟨17, 0x8007, 0xF00F⟩, ⟨18, 0x8006, 0xF00F⟩, ⟨19, 0x800E, 0xF00F⟩] ++
  [⟨20, 0xA000, 0xF000⟩, ⟨21, 0xB000, 0xF000⟩, ⟨22, 0xC000, 0xF000⟩, ⟨23, 0xD000, 0xF000⟩, ⟨24, 0xE09E, 0xF0FF⟩,
    ⟨25, 0xE0A1, 0xF0FF⟩] ++
  [⟨26, 0xF007, 0xF0FF⟩, ⟨27, 0xF015, 0xF0FF⟩, ⟨28, 0xF018, 0xF0FF⟩, ⟨29, 0xF01E, 0xF0FF⟩, ⟨30, 0xF00A, 0xF0FF⟩,
    ⟨31, 0xF029, 0xF0FF⟩, ⟨32, 0xF033, 0xF0FF⟩, ⟨33, 0xF055, 0xF0FF⟩, ⟨34, 0xF065, 0xF0FF⟩]

/-- The word `w` selects the row (R65). -/
def OpcodeRow.selectedBy (r : OpcodeRow) (w : Word) : Bool :=
  w &&& r.mask == r.pattern

/-- The number of the row of R65 that an instruction stands in. -/
def rowNumber : Instr → Nat
  | .cls => 1
  | .ret => 2
  | .jpAddr _ => 3
  | .callAddr _ => 4
  | .seVxByte _ _ => 5
  | .sneVxByte _ _ => 6
  | .seVxVy _ _ => 7
  | .sneVxVy _ _ => 8
  | .ldVxByte _ _ => 9
  | .addVxByte _ _ => 10
  | .ldVxVy _ _ => 11
  | .orVxVy _ _ => 12
  | .andVxVy _ _ => 13
  | .xorVxVy _ _ => 14
  | .addVxVy _ _ => 15
  | .subVxVy _ _ => 16
  | .subnVxVy _ _ => 17
  | .shrVxVy _ _ => 18
  | .shlVxVy _ _ => 19
  | .ldIAddr _ => 20
  | .jpV0Addr _ => 21
  | .rndVxByte _ _ => 22
  | .drwVxVyN _ _ _ => 23
  | .skpVx _ => 24
  | .sknpVx _ => 25
  | .ldVxDt _ => 26
  | .ldDtVx _ => 27
  | .ldStVx _ => 28
  | .addIVx _ => 29
  | .ldVxK _ => 30
  | .ldFVx _ => 31
  | .ldBVx _ => 32
  | .ldMemVx _ => 33
  | .ldVxMem _ => 34

/-- The instruction word of an opcode-table row as the host numbers it (bit 0 the least significant of the first word);
every instruction is one 16-bit word (R62), so bits of `w` from `nbits` up are zero. -/
def tableWord (nbits w : Nat) : Word :=
  BitVec.ofNat 16 (w % 2 ^ nbits)

/-- What the decoder reads from the bytes of `tableWord nbits w`. -/
def decodeTableWord (nbits w : Nat) : Option Instr :=
  match decode [highByte (tableWord nbits w), lowByte (tableWord nbits w)] with
  | .ok (i, _) => some i
  | .error _ => none

end Sys2Proof
end

