-- ==== Sys2Proof/Config.lean ====
section
/-! DEFINITION. What one machine fixes at Init (spec/00_scope.md R4: MODE and the open parameters), and the free values of the driver: which event it issues, and the inputs it presents. -/

namespace Sys2Proof

/-- MODE (R19): exactly three compatibility modes. -/
inductive Mode where
  | legacy
  | schip
  | xochip
deriving DecidableEq, Repr

/-- The port encoding of MODE (R19): 0 = LEGACY, 1 = SCHIP, 2 = XOCHIP. -/
def Mode.port : Mode → BitVec 2
  | .legacy => 0
  | .schip => 1
  | .xochip => 2

/-- MODE read from its two-bit port; the value 3 is not a legal configuration (R19, D28). -/
def Mode.ofPort (p : BitVec 2) : Option Mode :=
  if p = 0 then some .legacy else if p = 1 then some .schip else if p = 2 then some .xochip else none

/-- The three values of the open parameter QUIRK_MEM_I_INC (R164). -/
inductive MemIInc where
  /-- I is unchanged by Fx55 and Fx65. -/
  | none
  /-- I <- I + 1 after the transfer. -/
  | byOne
  /-- I <- I + x + 1 after the transfer. -/
  | byCount
deriving DecidableEq, Repr

/-- One value for each mode: an open parameter "per mode" (R164, R165) as plain data. -/
structure PerMode (α : Type) where
  legacy : α
  schip : α
  xochip : α
deriving DecidableEq, Repr

/-- The value an open parameter has in mode `m`. -/
def PerMode.get {α : Type} (p : PerMode α) : Mode → α
  | .legacy => p.legacy
  | .schip => p.schip
  | .xochip => p.xochip

/-- The configuration given to Init and constant from then on (R4, R19, R26, R166). -/
structure Configuration where
  /-- MODE. -/
  mode : Mode
  /-- QUIRK_LOGIC_VF_RESET (R165). -/
  logicVfReset : PerMode Bool
  /-- QUIRK_MEM_I_INC (R164). -/
  memIInc : PerMode MemIInc
  /-- STACK_DEPTH (R15): `none` is unbounded, else a positive count. -/
  stackDepth : Option Nat
deriving DecidableEq, Repr

/-- The default parameters of R4 and R160 in mode `m`: QUIRK_LOGIC_VF_RESET true in all modes (D11),
QUIRK_MEM_I_INC NONE, NONE, BY_ONE (D12), STACK_DEPTH none (D8). -/
def Configuration.defaults (m : Mode) : Configuration where
  mode := m
  logicVfReset := ⟨true, true, true⟩
  memIInc := ⟨.none, .none, .byOne⟩
  stackDepth := none

/-- PROGRAM_MAX (R4, R201): the largest program image, 0x200 to 0xFFF. -/
def programMax : Nat := 3584

/-- Which of the events of R7 the driver issues, Init apart. -/
inductive EventKind where
  | step
  | tick
  | clearDrawRequest
  | clearSoundRequest
deriving DecidableEq, Repr, Inhabited

/-- Which event the driver issues as the `k`-th one that the event tape does not give (R7): a free value, so that no order of
events and no ratio of Steps to Ticks is excluded. -/
opaque Config.freeEventKind : Nat → EventKind

/-- `keys_held` of the `k`-th event that the event tape does not give, where it is a Step (R22): a free value. -/
opaque Config.freeKeysHeld : Nat → BitVec 16

/-- `key_event` of the `k`-th event that the event tape does not give, where it is a Step (R23): a free value. -/
opaque Config.freeKeyEvent : Nat → Option Key

/-- `rnd` of the `k`-th event that the event tape does not give, where it is a Step (R24): a free value, a draw under no law. -/
opaque Config.freeRnd : Nat → Byte

end Sys2Proof
end

