-- ==== Sys2Proof/Machine/State.lean ====
section
/-! DEFINITION. The state of the core (spec/10_state.md R10 to R27), the model's own fields for the inputs and outputs of an event, and the state after reset (R30). -/

namespace Sys2Proof.Machine

/-- `status` (R21). -/
inductive Status where
  | running
  | halted
deriving DecidableEq, Repr

/-- The record `halt_info` (spec/60_exceptions.md R172). -/
structure HaltInfo where
  faultPc : Word
  faultWord : Word
  faultAddr : BitVec 17
deriving DecidableEq, Repr

/-- Main memory (R16) as plain data: the cells that differ from what an unlisted address reads as
(`Memory.unlisted`), addresses strictly rising. -/
abbrev Memory := List Host.Cell

/-- The framebuffer (R17): 32 rows of 64 one-bit cells, cell `x + 64*y` being bit `x` of row `y`. -/
abbrev Framebuffer := Vector (BitVec 64) 32

/-- What the input source and the random source present to one Step (R22, R23, R24). -/
structure StepInputs where
  /-- `keys_held`: bit `k` is 1 when key `k` is held down. -/
  keysHeld : BitVec 16
  /-- `key_event`: at most one newly pressed key. -/
  keyEvent : Option Key
  /-- `rnd`: a random byte. -/
  rnd : Byte
deriving DecidableEq, Repr

/-- The events the driver issues after Init (spec/00_scope.md R7). -/
inductive Event where
  | step (inp : StepInputs)
  | tick
  | clearDrawRequest
  | clearSoundRequest
deriving DecidableEq, Repr

/-- The report `unknown_op` (spec/60_exceptions.md R179): the word and the address it was fetched from. -/
structure UnknownReport where
  word : Word
  addr : Word
deriving DecidableEq, Repr

/-- The state of the machine. The fields down to `cfg` are the spec's own (R26); `events`, `draws`, `inputs`,
`unknownOp` and `keyTaken` are the model's, for what R8 and R25 call inputs and outputs of an event (assumptions 2, 3, 4). -/
structure State where
  /-- V[0..15] (R10); V[15] is VF (R11). -/
  v : Vector Byte 16
  /-- The index register I (R12). -/
  i : Word
  /-- The program counter (R13); inside an instruction it holds the instruction's address plus 2. -/
  pc : Word
  /-- The call stack (R15), the newest entry last. -/
  stack : List Word
  /-- Main memory (R16). -/
  mem : Memory
  /-- The framebuffer (R17). -/
  fb : Framebuffer
  /-- The delay timer (R18). -/
  dt : Byte
  /-- The sound timer (R18). -/
  st : Byte
  /-- `draw_req` (R20). -/
  drawReq : Bool
  /-- `sound_req` (R20). -/
  soundReq : Bool
  /-- `status` (R21). -/
  status : Status
  /-- `halt_cause` (R21, R171), meaningful only when HALTED. -/
  haltCause : BitVec 3
  /-- `halt_info` (R21, R172), meaningful only when HALTED. -/
  haltInfo : HaltInfo
  /-- MODE and the open parameters (R19, R26); no event writes it. -/
  cfg : Configuration
  /-- The driver's tape: the events still to come, the next one first (assumption 2). -/
  events : List Event
  /-- How many events the free values of Config have given (assumption 3). -/
  draws : Nat
  /-- The input ports of the Step being executed (R22, R23, R24; assumption 4). -/
  inputs : StepInputs
  /-- The strobe `unknown_op` of the latest event (R25). -/
  unknownOp : Option UnknownReport
  /-- The strobe `key_taken` of the latest event (R25). -/
  keyTaken : Bool
deriving DecidableEq, Repr

/-- The reasons for which the machine stops WITHOUT a next state: there are none.
The fatal conditions of R170 have an entry that the spec describes (R174), so they are taken as next states whose
`status` is HALTED (assumption 1), and a HALTED core goes on ignoring events (R176). -/
inductive Fault where
deriving DecidableEq, Repr

/-- The reasons for which an instruction has no meaning. -/
inductive Refusal where
  /-- Raised by `exec` for an instruction that is not modelled yet, named by its mnemonic; safe. No arm raises it now. -/
  | notModelled (mnemonic : String)
deriving DecidableEq, Repr

/-- What an instruction or an event answers. -/
abbrev Outcome := Host.Outcome State Fault Refusal

/-- The state after `Init(LEGACY, [])` with R4's default parameters and the default FONT (R30, R200): the machine right
after reset, before any event (assumptions 5, 7 to 11). -/
def State.reset : State where
  v := Vector.replicate 16 0
  i := 0
  pc := 0x200
  stack := []
  mem := []
  fb := Vector.replicate 32 0
  dt := 0
  st := 0
  drawReq := false
  soundReq := false
  status := .running
  haltCause := 0
  haltInfo := ⟨0, 0, 0⟩
  cfg := Configuration.defaults .legacy
  events := []
  draws := 0
  inputs := ⟨0, none, 0⟩
  unknownOp := none
  keyTaken := false

end Sys2Proof.Machine
end

