-- ==== Sys2Proof/Machine/Memory.lean ====
section
/-! DEFINITION. Main memory (spec/20_memory.md R40 to R48): one byte read and written, blocks of bytes in ascending order, the canonical form. -/

namespace Sys2Proof.Machine

/-- Memory has the addresses 0x000 to 0xFFF (R40). -/
def memSize : Nat := 0x1000

/-- The default value of the parameter FONT: R31's table, 16 glyphs of 5 bytes (from general knowledge, assumption 9). -/
def defaultFont : List Byte :=
  [0xF0, 0x90, 0x90, 0x90, 0xF0] ++ [0x20, 0x60, 0x20, 0x20, 0x70] ++
  [0xF0, 0x10, 0xF0, 0x80, 0xF0] ++ [0xF0, 0x10, 0xF0, 0x10, 0xF0] ++
  [0x90, 0x90, 0xF0, 0x10, 0x10] ++ [0xF0, 0x80, 0xF0, 0x10, 0xF0] ++
  [0xF0, 0x80, 0xF0, 0x90, 0xF0] ++ [0xF0, 0x10, 0x20, 0x40, 0x40] ++
  [0xF0, 0x90, 0xF0, 0x90, 0xF0] ++ [0xF0, 0x90, 0xF0, 0x10, 0xF0] ++
  [0xF0, 0x90, 0xF0, 0x90, 0x90] ++ [0xE0, 0x90, 0xE0, 0x90, 0xE0] ++
  [0xF0, 0x80, 0x80, 0x80, 0xF0] ++ [0xE0, 0x90, 0x90, 0x90, 0xE0] ++
  [0xF0, 0x80, 0xF0, 0x80, 0xF0] ++ [0xF0, 0x80, 0xF0, 0x80, 0x80]

/-- What an address that no entry lists reads as: the contents after `Init` with an empty program and the default FONT
(R30): the font from 0x000, zero everywhere else (assumption 10). -/
def Memory.unlisted (a : Nat) : Byte :=
  defaultFont.getD a 0

/-- The byte at address `a`. That `a` is in range is checked before (`inBounds`). -/
def Memory.read : Memory → Nat → Byte
  | [], a => Memory.unlisted a
  | (c, b) :: m, a => if c = a then b else Memory.read m a

/-- The entry for byte `b` at `a` in front of `m`: none when `b` is what an unlisted address reads as. -/
def Memory.cons (a : Nat) (b : Byte) (m : Memory) : Memory :=
  if b = Memory.unlisted a then m else (a, b) :: m

/-- Store of byte `b` at address `a`, in canonical form. -/
def Memory.write : Memory → Nat → Byte → Memory
  | [], a, b => Memory.cons a b []
  | (c, d) :: m, a, b =>
    if a < c then Memory.cons a b ((c, d) :: m)
    else if a = c then Memory.cons a b m
    else (c, d) :: Memory.write m a b

/-- The canonical form from address `lo` up: strictly rising addresses inside the memory, no entry equal to what an
unlisted address reads as. -/
def Memory.wfFrom : Nat → Memory → Bool
  | _, [] => true
  | lo, (c, b) :: m => decide (lo ≤ c) && decide (c < memSize) && (b != Memory.unlisted c) && Memory.wfFrom (c + 1) m

/-- The canonical form of a memory. -/
def Memory.wf (m : Memory) : Bool :=
  Memory.wfFrom 0 m

/-- The `n` bytes from address `a` upward (R43, R47). -/
def Memory.readBlock (m : Memory) (a : Nat) : Nat → List Byte
  | 0 => []
  | n + 1 => Memory.read m a :: Memory.readBlock m (a + 1) n

/-- The bytes stored one by one from address `a` upward (R43, R47, R124). -/
def Memory.writeBlock (m : Memory) (a : Nat) : List Byte → Memory
  | [] => m
  | b :: bs => Memory.writeBlock (Memory.write m a b) (a + 1) bs

/-- Every address of the access range `base`, ..., `base + len - 1` is at most 0xFFF, on natural numbers (R45, R46, R47). -/
def inBounds (base len : Nat) : Bool :=
  decide (len = 0 ∨ base + len ≤ memSize)

/-- The lowest out-of-range address of an access range from `base` that leaves the memory: max(base, 0x1000) (R47, R172). -/
def lowestOutOfRange (base : Nat) : BitVec 17 :=
  BitVec.ofNat 17 (max base memSize)

/-- PROGRAM_BASE (R4). -/
def programBase : Nat := 0x200

/-- The regions of the address map (R41). -/
inductive Region where
  /-- 0x000 to 0x04F: the built-in font. -/
  | font
  /-- 0x050 to 0x1FF: reserved, interpreter-owned. -/
  | reserved
  /-- 0x200 to 0xFFF: the program image, then free memory. -/
  | program
deriving DecidableEq, Repr

/-- The region an address stands in; none outside the memory (R40, R41). No access is checked against it (R48). -/
def regionOf (a : Nat) : Option Region :=
  if a < 0x50 then some .font
  else if a < programBase then some .reserved
  else if a < memSize then some .program
  else none

end Sys2Proof.Machine
end

