-- ==== Sys2Proof/Machine/Ops.lean ====
section
/-! DEFINITION. The shared operations on registers, PC, stack and memory, and taking a fatal condition (spec/60_exceptions.md R170 to R177). -/

namespace Sys2Proof.Machine

/-! ## Registers (R10) -/

/-- `V[x]`. -/
def State.getV (s : State) (x : Reg) : Byte :=
  s.v[x.val]

/-- `V[x] <- b`. -/
def State.setV (s : State) (x : Reg) (b : Byte) : State :=
  { s with v := s.v.set x.val b x.isLt }

/-- The number of VF, the one flag (R11). -/
def vf : Reg := 15

/-- `V[x] <- b` for the registers `k`, `k + 1`, ... in turn (R125). -/
def loadBlock (v : Vector Byte 16) (k : Nat) : List Byte → Vector Byte 16
  | [] => v
  | b :: bs => loadBlock (v.setIfInBounds k b) (k + 1) bs

/-- V[0], ..., V[x] in order (R124). -/
def State.regsUpTo (s : State) (x : Reg) : List Byte :=
  s.v.toList.take (x.val + 1)

/-! ## Program counter (R13) -/

/-- The fetch's advance, and the skip of the skip instructions: `pc <- pc + 2` (R9, R60). -/
def State.advance (s : State) : State :=
  { s with pc := s.pc + 2 }

/-- Skip when the condition holds (R83 to R86, R150, R151). -/
def State.skipIf (s : State) (c : Bool) : State :=
  if c then s.advance else s

/-- The address the instruction being executed was fetched from: `pc - 2` in the execute phase (R172, R179). -/
def State.instrAddr (s : State) : Word :=
  s.pc - 2

/-! ## Taking a fatal condition

There is no return from one: once HALTED the core stays HALTED and no event clears it (R176). -/

/-- The causes of R171. -/
inductive HaltCause where
  | stackUnderflow
  | fetchOutOfBounds
  | dataOutOfBounds
  | stackOverflow
deriving DecidableEq, Repr

/-- The codes of R171. -/
def HaltCause.code : HaltCause → BitVec 3
  | .stackUnderflow => 1
  | .fetchOutOfBounds => 2
  | .dataOutOfBounds => 3
  | .stackOverflow => 4

/-- `status <- HALTED; halt_cause <- code; halt_info <- info`, and nothing else (R174). -/
def State.halt (s : State) (c : HaltCause) (info : HaltInfo) : State :=
  { s with status := .halted, haltCause := c.code, haltInfo := info }

/-- `raise F(info)` in the execute phase of the instruction whose word is `w`: PC stays at the instruction's address plus 2
(R172, R174, R175). -/
def raise (c : HaltCause) (w : Word) (addr : BitVec 17) (s : State) : Outcome :=
  .next (s.halt c ⟨s.instrAddr, w, addr⟩)

/-- `raise FetchOutOfBounds(pc)` (R44, R60, R172, R175): PC is unchanged and no word was read. -/
def raiseFetch (s : State) : Outcome :=
  .next (s.halt .fetchOutOfBounds ⟨s.pc, 0, lowestOutOfRange s.pc.toNat⟩)

/-! ## Call stack (R15) -/

/-- The stack is full: only with a finite STACK_DEPTH. -/
def State.stackFull (s : State) : Bool :=
  s.cfg.stackDepth == some s.stack.length

/-- `stack <- stack ++ [v]` of `push(v)`, the overflow having been checked. -/
def State.push (s : State) (a : Word) : State :=
  { s with stack := s.stack ++ [a] }

/-- `pop()`: the newest entry and the state without it; none when the stack is empty. -/
def State.pop (s : State) : Option (Word × State) :=
  match s.stack.getLast? with
  | some a => some (a, { s with stack := s.stack.dropLast })
  | none => none

/-! ## Data accesses (R45 to R47, R126) -/

/-- An access of `len` bytes from I by the instruction whose word is `w`: the whole range is checked before anything is
written; out of range it raises DataOutOfBounds, in range the instruction's effect `t` happens (R47, R123 to R125, R141). -/
def withAccess (w : Word) (len : Nat) (s t : State) : Outcome :=
  if inBounds s.i.toNat len then .next t
  else raise .dataOutOfBounds w (lowestOutOfRange s.i.toNat) s

/-- The `n` bytes at I, I + 1, ... -/
def State.bytesAtI (s : State) (n : Nat) : List Byte :=
  Memory.readBlock s.mem s.i.toNat n

/-- The bytes stored at I, I + 1, ... -/
def State.storeAtI (s : State) (bs : List Byte) : State :=
  { s with mem := Memory.writeBlock s.mem s.i.toNat bs }

end Sys2Proof.Machine
end

