-- ==== Sys2Proof/Machine/Quirks.lean ====
section
/-! DEFINITION. The quirk dispatch logic (spec/45_quirk_dispatch.md R160 to R166): five signals, functions of the configuration alone. -/

namespace Sys2Proof.Machine

/-- Q_SHIFT_USES_VY (R161): true in LEGACY and XOCHIP, false in SCHIP. -/
def qShiftUsesVy (c : Configuration) : Bool :=
  match c.mode with
  | .legacy => true
  | .schip => false
  | .xochip => true

/-- Q_JUMP_USES_VX (R162): false in LEGACY, true in SCHIP and XOCHIP. -/
def qJumpUsesVx (c : Configuration) : Bool :=
  match c.mode with
  | .legacy => false
  | .schip => true
  | .xochip => true

/-- Q_DRAW_WRAP (R163): false in LEGACY and SCHIP, true in XOCHIP. -/
def qDrawWrap (c : Configuration) : Bool :=
  match c.mode with
  | .legacy => false
  | .schip => false
  | .xochip => true

/-- Q_MEM_I_INC = QUIRK_MEM_I_INC(MODE) (R164). -/
def qMemIInc (c : Configuration) : MemIInc :=
  c.memIInc.get c.mode

/-- Q_LOGIC_VF_RESET = QUIRK_LOGIC_VF_RESET(MODE) (R165). -/
def qLogicVfReset (c : Configuration) : Bool :=
  c.logicVfReset.get c.mode

end Sys2Proof.Machine
end

