-- ==== Sys2Proof/Machine/Flags.lean ====
section
/-! DEFINITION. The flag computations: every value that an instruction writes to VF as a side effect (spec/10_state.md R11, spec/41_alu.md R112, R113), and the order result first, flag last. -/

namespace Sys2Proof.Machine

/-- A flag as the byte VF holds, 0 or 1. -/
def flagByte (c : Bool) : Byte :=
  if c then 1 else 0

/-- The carry of ADD: the sum exceeds 255 (R106, R113). -/
def carryFlag (a b : Byte) : Byte :=
  flagByte (decide (255 < a.toNat + b.toNat))

/-- The no-borrow flag of `a - b`: minuend at least subtrahend (R107, R109, R113). -/
def noBorrowFlag (a b : Byte) : Byte :=
  flagByte (decide (b.toNat ≤ a.toNat))

/-- The bit SHR shifts out: bit 0 of the value shifted (R108). -/
def shrFlag (t : Byte) : Byte :=
  flagByte (t.getLsbD 0)

/-- The bit SHL shifts out: bit 7 of the value shifted (R110). -/
def shlFlag (t : Byte) : Byte :=
  flagByte (t.getLsbD 7)

/-- The result to V[x], then the flag to VF, so that with x = 0xF the flag survives (R112, D10). -/
def State.setWithFlag (s : State) (x : Reg) (result flag : Byte) : State :=
  (s.setV x result).setV vf flag

/-- The result of OR, AND, XOR to V[x], then 0 to VF when Q_LOGIC_VF_RESET (R103 to R105, R165). -/
def State.setLogic (s : State) (x : Reg) (result : Byte) : State :=
  if qLogicVfReset s.cfg then s.setWithFlag x result 0 else s.setV x result

end Sys2Proof.Machine
end

