-- ==== Sys2Proof/Machine/Operands.lean ====
section
/-! DEFINITION. The operand forms (spec/30_encoding.md R63, spec/42_index_memory.md R126): what an instruction computes from registers, immediates, I and the inputs. -/

namespace Sys2Proof.Machine

/-- `zext_16(nnn)` (R63). -/
def zextAddr (nnn : Addr12) : Word :=
  nnn.setWidth 16

/-- `zext_16` of a register value. -/
def zextByte (b : Byte) : Word :=
  b.setWidth 16

/-- `zext_8(k)` of a key number (R152). -/
def keyByte (k : Key) : Byte :=
  BitVec.ofNat 8 k.val

/-- The value the shifts shift: V[y] or V[x] by Q_SHIFT_USES_VY (R108, R110, R161). -/
def State.shiftSource (s : State) (x y : Reg) : Byte :=
  if qShiftUsesVy s.cfg then s.getV y else s.getV x

/-- The register JP V0,addr adds: V[x] or V[0] by Q_JUMP_USES_VX (R87, R162). -/
def State.jumpOffset (s : State) (nnn : Addr12) : Byte :=
  if qJumpUsesVx s.cfg then s.getV (xOfNnn nnn) else s.getV 0

/-- The key with value `k` is held: keys exist only for 0x0 to 0xF, no masking (R150, R151, D14). -/
def State.keyHeld (s : State) (k : Byte) : Bool :=
  decide (k.toNat ≤ 0xF) && s.inputs.keysHeld.getLsbD k.toNat

/-- The address of the glyph of a value: 5 times the whole byte, no masking (R122, D13). -/
def glyphAddr (b : Byte) : Word :=
  5 * zextByte b

/-- The three decimal digits of a byte: hundreds, tens, ones (R123). -/
def bcdDigits (b : Byte) : List Byte :=
  [BitVec.ofNat 8 (b.toNat / 100), BitVec.ofNat 8 (b.toNat / 10 % 10), BitVec.ofNat 8 (b.toNat % 10)]

/-- How far Fx55 and Fx65 move I after transferring registers 0 to `x` (R124, R125, R164). -/
def iAdvance (q : MemIInc) (x : Reg) : Word :=
  match q with
  | .none => 0
  | .byOne => 1
  | .byCount => BitVec.ofNat 16 (x.val + 1)

/-- I after Fx55 or Fx65, reduced modulo 65536. -/
def State.advanceI (s : State) (x : Reg) : State :=
  { s with i := s.i + iAdvance (qMemIInc s.cfg) x }

/-- The start column and row of a sprite: V[x] mod 64 and V[y] mod 32 in every mode (R141). -/
def State.spriteOrigin (s : State) (x y : Reg) : Nat × Nat :=
  ((s.getV x).toNat % 64, (s.getV y).toNat % 32)

end Sys2Proof.Machine
end

