-- ==== Sys2Proof/Machine/Alu.lean ====
section
/-! DEFINITION. Register, arithmetic, logic, shift and random instructions (spec/41_alu.md R100 to R113). All arithmetic is modulo 256 (R113). -/

namespace Sys2Proof.Machine

/-- LD Vx,byte (R100). -/
def execLdVxByte (x : Reg) (nn : Byte) (s : State) : Outcome :=
  .next (s.setV x nn)

/-- ADD Vx,byte (R101): no flag. -/
def execAddVxByte (x : Reg) (nn : Byte) (s : State) : Outcome :=
  .next (s.setV x (s.getV x + nn))

/-- LD Vx,Vy (R102). -/
def execLdVxVy (x y : Reg) (s : State) : Outcome :=
  .next (s.setV x (s.getV y))

/-- OR Vx,Vy (R103). -/
def execOrVxVy (x y : Reg) (s : State) : Outcome :=
  .next (s.setLogic x (s.getV x ||| s.getV y))

/-- AND Vx,Vy (R104). -/
def execAndVxVy (x y : Reg) (s : State) : Outcome :=
  .next (s.setLogic x (s.getV x &&& s.getV y))

/-- XOR Vx,Vy (R105). -/
def execXorVxVy (x y : Reg) (s : State) : Outcome :=
  .next (s.setLogic x (s.getV x ^^^ s.getV y))

/-- ADD Vx,Vy (R106). -/
def execAddVxVy (x y : Reg) (s : State) : Outcome :=
  .next (s.setWithFlag x (s.getV x + s.getV y) (carryFlag (s.getV x) (s.getV y)))

/-- SUB Vx,Vy (R107). -/
def execSubVxVy (x y : Reg) (s : State) : Outcome :=
  .next (s.setWithFlag x (s.getV x - s.getV y) (noBorrowFlag (s.getV x) (s.getV y)))

/-- SUBN Vx,Vy (R109). -/
def execSubnVxVy (x y : Reg) (s : State) : Outcome :=
  .next (s.setWithFlag x (s.getV y - s.getV x) (noBorrowFlag (s.getV y) (s.getV x)))

/-- SHR Vx{,Vy} (R108). -/
def execShrVxVy (x y : Reg) (s : State) : Outcome :=
  .next (s.setWithFlag x (s.shiftSource x y >>> 1) (shrFlag (s.shiftSource x y)))

/-- SHL Vx{,Vy} (R110). -/
def execShlVxVy (x y : Reg) (s : State) : Outcome :=
  .next (s.setWithFlag x (s.shiftSource x y <<< 1) (shlFlag (s.shiftSource x y)))

/-- RND Vx,byte (R111): the Step's random input, masked. -/
def execRndVxByte (x : Reg) (nn : Byte) (s : State) : Outcome :=
  .next (s.setV x (s.inputs.rnd &&& nn))

end Sys2Proof.Machine
end

