-- ==== Sys2Proof/Machine/Display.lean ====
section
/-! DEFINITION. The framebuffer and the display instructions (spec/10_state.md R17, spec/43_display.md R140 to R143). -/

namespace Sys2Proof.Machine

/-- Cell `k` = x + 64*y of the framebuffer, 1 being on (R17). -/
def Framebuffer.cell (fb : Framebuffer) (k : Nat) : Bool :=
  (fb.getD (k / 64) 0).getLsbD (k % 64)

/-- `fb[k] <- fb[k] ^ 1`. -/
def Framebuffer.toggle (fb : Framebuffer) (k : Nat) : Framebuffer :=
  fb.setIfInBounds (k / 64) (fb.getD (k / 64) 0 ^^^ BitVec.twoPow 64 (k % 64))

/-- Every cell off. -/
def Framebuffer.clear : Framebuffer :=
  Vector.replicate 32 0

/-- Column `c` of a sprite row: bit 7 - c, column 0 the leftmost (R142, D15, assumption 20). -/
def spriteBit (b : Byte) (c : Nat) : Bool :=
  b.getLsbD (7 - c)

/-- The cell that column `px`, row `py` of an unbounded screen falls on: wrapped when Q_DRAW_WRAP, else none when it lies
outside the 64 by 32 bounds (R141, R163). -/
def drawCell (wrap : Bool) (px py : Nat) : Option Nat :=
  if wrap then some (px % 64 + 64 * (py % 32))
  else if 63 < px ∨ 31 < py then none
  else some (px + 64 * py)

/-- The framebuffer and the collision found so far while a sprite is drawn. -/
structure Canvas where
  fb : Framebuffer
  collision : Bool
deriving DecidableEq, Repr

/-- One pixel of a sprite (R141): a 0 bit or a clipped pixel does nothing; a 1 bit is XORed, and is a collision when the cell
was on. -/
def drawPixel (cell : Option Nat) (bit : Bool) (k : Canvas) : Canvas :=
  match cell with
  | none => k
  | some j => if bit then ⟨k.fb.toggle j, k.collision || k.fb.cell j⟩ else k

/-- The columns `c`, `c + 1`, ... of one sprite row, `m` of them. -/
def drawColumns (wrap : Bool) (x0 py : Nat) (b : Byte) (c : Nat) : Nat → Canvas → Canvas
  | 0, k => k
  | m + 1, k =>
    drawColumns wrap x0 py b (c + 1) m (drawPixel (drawCell wrap (x0 + c) py) (spriteBit b c) k)

/-- The rows of a sprite from screen row `py` downward, each of 8 columns. -/
def drawRows (wrap : Bool) (x0 : Nat) : Nat → List Byte → Canvas → Canvas
  | _, [], k => k
  | py, b :: bs, k => drawRows wrap x0 (py + 1) bs (drawColumns wrap x0 py b 0 8 k)

/-- CLS (R140). -/
def execCls (s : State) : Outcome :=
  .next { s with fb := Framebuffer.clear, drawReq := true }

/-- What the n rows of a DRW leave: the framebuffer and whether a pixel went off (R141). -/
def State.drawn (s : State) (x y : Reg) (n : Nibble) : Canvas :=
  drawRows (qDrawWrap s.cfg) (s.spriteOrigin x y).1 (s.spriteOrigin x y).2 (s.bytesAtI n.toNat) ⟨s.fb, false⟩

/-- DRW Vx,Vy,n (R141): the operands are read before VF is written (D16), and VF ends as the collision flag. -/
def execDrwVxVyN (x y : Reg) (n : Nibble) (s : State) : Outcome :=
  withAccess (encodeWord (.drwVxVyN x y n)) n.toNat s
    ({ s with fb := (s.drawn x y n).fb, drawReq := true }.setV vf (flagByte (s.drawn x y n).collision))

end Sys2Proof.Machine
end

