-- ==== Sys2Proof/Machine/Flow.lean ====
section
/-! DEFINITION. Control transfer and the unknown opcode (spec/40_flow.md R80 to R88). -/

namespace Sys2Proof.Machine

/-- RET (R80): pop into PC; StackUnderflow on an empty stack. -/
def execRet (s : State) : Outcome :=
  match s.pop with
  | some (a, t) => .next { t with pc := a }
  | none => raise .stackUnderflow (encodeWord .ret) 0 s

/-- JP addr (R81). -/
def execJpAddr (nnn : Addr12) (s : State) : Outcome :=
  .next { s with pc := zextAddr nnn }

/-- CALL addr (R82): push the address after the CALL; StackOverflow on a full stack of finite depth. -/
def execCallAddr (nnn : Addr12) (s : State) : Outcome :=
  if s.stackFull then raise .stackOverflow (encodeWord (.callAddr nnn)) (s.pc.setWidth 17) s
  else .next { s.push s.pc with pc := zextAddr nnn }

/-- SE Vx,byte (R83). -/
def execSeVxByte (x : Reg) (nn : Byte) (s : State) : Outcome :=
  .next (s.skipIf (s.getV x == nn))

/-- SNE Vx,byte (R84). -/
def execSneVxByte (x : Reg) (nn : Byte) (s : State) : Outcome :=
  .next (s.skipIf (s.getV x != nn))

/-- SE Vx,Vy (R85). -/
def execSeVxVy (x y : Reg) (s : State) : Outcome :=
  .next (s.skipIf (s.getV x == s.getV y))

/-- SNE Vx,Vy (R86). -/
def execSneVxVy (x y : Reg) (s : State) : Outcome :=
  .next (s.skipIf (s.getV x != s.getV y))

/-- JP V0,addr (R87): the sum is kept in the 16-bit PC, not masked to 12 bits (D25). -/
def execJpV0Addr (nnn : Addr12) (s : State) : Outcome :=
  .next { s with pc := zextAddr nnn + zextByte (s.jumpOffset nnn) }

/-- UNKNOWN (R88, R179): a no-op with the report `unknown_op = (w, pc - 2)`. It is no instruction of the table; a Step calls
it for a word that the decoder gives no instruction for. -/
def execUnknown (w : Word) (s : State) : Outcome :=
  .next { s with unknownOp := some ⟨w, s.instrAddr⟩ }

end Sys2Proof.Machine
end

