-- ==== Sys2Proof/Machine/Index.lean ====
section
/-! DEFINITION. Index register, loads and stores (spec/42_index_memory.md R120 to R126). -/

namespace Sys2Proof.Machine

/-- LD I,addr (R120). -/
def execLdIAddr (nnn : Addr12) (s : State) : Outcome :=
  .next { s with i := zextAddr nnn }

/-- ADD I,Vx (R121): modulo 65536, no flag. -/
def execAddIVx (x : Reg) (s : State) : Outcome :=
  .next { s with i := s.i + zextByte (s.getV x) }

/-- LD F,Vx (R122). -/
def execLdFVx (x : Reg) (s : State) : Outcome :=
  .next { s with i := glyphAddr (s.getV x) }

/-- LD B,Vx (R123). -/
def execLdBVx (x : Reg) (s : State) : Outcome :=
  withAccess (encodeWord (.ldBVx x)) 3 s (s.storeAtI (bcdDigits (s.getV x)))

/-- LD [I],Vx (R124): registers 0 to x stored, then I moved by the quirk. -/
def execLdMemVx (x : Reg) (s : State) : Outcome :=
  withAccess (encodeWord (.ldMemVx x)) (x.val + 1) s ((s.storeAtI (s.regsUpTo x)).advanceI x)

/-- LD Vx,[I] (R125): registers 0 to x loaded, then I moved by the quirk. -/
def execLdVxMem (x : Reg) (s : State) : Outcome :=
  withAccess (encodeWord (.ldVxMem x)) (x.val + 1) s
    ({ s with v := loadBlock s.v 0 (s.bytesAtI (x.val + 1)) }.advanceI x)

end Sys2Proof.Machine
end

