-- ==== Sys2Proof/Machine/KeysTimers.lean ====
section
/-! DEFINITION. Keypad and timer instructions (spec/44_keys_timers.md R150 to R155). -/

namespace Sys2Proof.Machine

/-- SKP Vx (R150). -/
def execSkpVx (x : Reg) (s : State) : Outcome :=
  .next (s.skipIf (s.keyHeld (s.getV x)))

/-- SKNP Vx (R151). -/
def execSknpVx (x : Reg) (s : State) : Outcome :=
  .next (s.skipIf (!s.keyHeld (s.getV x)))

/-- LD Vx,K (R152): takes the key event and raises `key_taken`, or goes back to its own address. -/
def execLdVxK (x : Reg) (s : State) : Outcome :=
  match s.inputs.keyEvent with
  | some k => .next { s.setV x (keyByte k) with keyTaken := true }
  | none => .next { s with pc := s.pc - 2 }

/-- LD Vx,DT (R153). -/
def execLdVxDt (x : Reg) (s : State) : Outcome :=
  .next (s.setV x s.dt)

/-- LD DT,Vx (R154). -/
def execLdDtVx (x : Reg) (s : State) : Outcome :=
  .next { s with dt := s.getV x }

/-- LD ST,Vx (R155). -/
def execLdStVx (x : Reg) (s : State) : Outcome :=
  .next { s with st := s.getV x }

end Sys2Proof.Machine
end

