-- ==== Sys2Proof/Machine/Events.lean ====
section
/-! DEFINITION. The driver's events (spec/00_scope.md R7): which one comes next, Tick (spec/60_exceptions.md R183), the clear events (R185), and the fetch of a Step (spec/30_encoding.md R60). -/

namespace Sys2Proof.Machine

/-- The inputs of a Step whose inputs the tape does not give: free values (R22 to R24, assumption 3). -/
def State.freeInputs (s : State) : StepInputs where
  keysHeld := Config.freeKeysHeld s.draws
  keyEvent := Config.freeKeyEvent s.draws
  rnd := Config.freeRnd s.draws

/-- The event the driver issues where the tape does not give it: which one is a free value, so that every interleaving of
the events goes on being allowed (R7, assumptions 2 and 3). -/
def State.freeEvent (s : State) : Event :=
  match Config.freeEventKind s.draws with
  | .step => .step s.freeInputs
  | .tick => .tick
  | .clearDrawRequest => .clearDrawRequest
  | .clearSoundRequest => .clearSoundRequest

/-- The event the driver issues next: the head of the tape, and a free event once the tape is used up (assumption 2). -/
def State.nextEvent (s : State) : Event :=
  match s.events with
  | e :: _ => e
  | [] => s.freeEvent

/-- The event is taken from the driver; the strobes of the event before it end (R25). -/
def State.takeEvent (s : State) : State :=
  match s.events with
  | _ :: es => { s with events := es, unknownOp := none, keyTaken := false }
  | [] => { s with draws := s.draws + 1, unknownOp := none, keyTaken := false }

/-- A timer after one Tick: "never decrements below 0" (R18, R183). -/
def countDown (t : Byte) : Byte :=
  if t = 0 then 0 else t - 1

/-- Tick on a RUNNING core (R183): the sound request is tested before the decrement (D20). -/
def State.tick (s : State) : State :=
  { s with soundReq := s.soundReq || s.st != 0, dt := countDown s.dt, st := countDown s.st }

/-- ClearDrawRequest on a RUNNING core (R185). -/
def State.clearDrawRequest (s : State) : State :=
  { s with drawReq := false }

/-- ClearSoundRequest on a RUNNING core (R185). -/
def State.clearSoundRequest (s : State) : State :=
  { s with soundReq := false }

/-- The highest PC a word can be fetched from (R44, D4). -/
def lastFetch : Nat := 0xFFE

/-- The instruction word at PC, big-endian (R42, R60). -/
def State.fetchWord (s : State) : Word :=
  wordOfBytes (Memory.read s.mem s.pc.toNat) (Memory.read s.mem (s.pc.toNat + 1))

end Sys2Proof.Machine
end

