-- ==== Sys2Proof/Machine/Run.lean ====
section
/-! DEFINITION. One event on the machine: the Step of spec/30_encoding.md R60 (fetch, decode, dispatch), and the other events (spec/60_exceptions.md R176, R183, R185). -/

namespace Sys2Proof.Machine

/-- The execute phase: the instruction the word selects, or the unknown opcode (R64, R66). -/
def execWord (w : Word) (s : State) : Outcome :=
  match decodeWord w with
  | some i => exec i s
  | none => execUnknown w s

/-- A Step on a RUNNING core (R60): the fetch check, the fetch, `pc <- a + 2`, then the execute phase. -/
def runStep (s : State) : Outcome :=
  if lastFetch < s.pc.toNat then raiseFetch s
  else execWord s.fetchWord s.advance

/-- An event on a RUNNING core (R7). -/
def runEvent (e : Event) (s : State) : Outcome :=
  match e with
  | .step inp => runStep { s with inputs := inp }
  | .tick => .next s.tick
  | .clearDrawRequest => .next s.clearDrawRequest
  | .clearSoundRequest => .next s.clearSoundRequest

/-- The next event of the driver; a HALTED core ignores it (R176). -/
def issueEvent (s : State) : Outcome :=
  match s.status with
  | .running => runEvent s.nextEvent s.takeEvent
  | .halted => .next s.takeEvent

/-- The events still to come, from the first Step on. -/
def dropToStep : List Event → List Event
  | [] => []
  | .step inp :: es => .step inp :: es
  | _ :: es => dropToStep es

/-- `s` with a Step as the driver's next event: the events before the first Step of the tape are dropped, and a tape without a
Step is given one with free inputs, whose number is then used up. -/
def State.awaitStep (s : State) : State :=
  match dropToStep s.events with
  | [] => { s with events := [.step s.freeInputs], draws := s.draws + 1 }
  | e :: es => { s with events := e :: es }

/-- `s` made ready to fetch and run the word `w` in its very next step: the word stored at PC, high byte first (R42). What a
fetch needs besides: a RUNNING core, a PC that a word can be fetched from (else the entry point 0x200 is taken), and a Step as
the next event (assumption 11). -/
def State.placeWord (s : State) (w : Word) : State :=
  let pc := if lastFetch < s.pc.toNat then 0x200 else s.pc
  { s.awaitStep with
    pc := pc
    status := .running
    mem := Memory.writeBlock s.mem pc.toNat [highByte w, lowByte w] }

end Sys2Proof.Machine
end

