-- ==== Sys2Proof/WellFormed.lean ====
section
/-! DEFINITION. What a launch of the machine needs: the checks on the configuration, the font and the program image given to Init (spec/00_scope.md R4, spec/70_reset_and_hazards.md R201).

An `Instr` needs no check: each operand's type is the field's own width (`Reg`, `Byte`, `Addr12`, `Nibble`), so that every term of it
is an instruction of R65. -/

namespace Sys2Proof

/-- STACK_DEPTH is "`none` (unbounded) or a positive count" (R4). -/
def Configuration.wellFormed (c : Configuration) : Bool :=
  c.stackDepth != some 0

/-- FONT is 80 bytes, 16 glyphs of 5 (R4, R31). -/
def fontWellFormed (font : List Byte) : Bool :=
  font.length == 80

/-- The image fits: L ≤ PROGRAM_MAX (R201). -/
def imageWellFormed (program : List Byte) : Bool :=
  decide (program.length ≤ programMax)

/-- A launch that Init gives a result for. -/
def launchWellFormed (c : Configuration) (font program : List Byte) : Bool :=
  c.wellFormed && fontWellFormed font && imageWellFormed program

end Sys2Proof
end

