-- ==== Sys2Proof/Machine/Init.lean ====
section
/-! DEFINITION. The event Init(MODE, program) (spec/70_reset_and_hazards.md R200, R201): it makes the state, once, before any other event. -/

namespace Sys2Proof.Machine

/-- The memory after Init: zero, then FONT from 0x000, then the image from 0x200, byte by byte (R56, R200). -/
def initMemory (font program : List Byte) : Memory :=
  Memory.writeBlock (Memory.writeBlock [] 0 font) programBase program

/-- Init with the configuration, FONT and image given, and the driver's tape `es` (R200). A launch that is not well formed is
refused and has no state (R201, assumption 23). -/
def State.init (c : Configuration) (font program : List Byte) (es : List Event) : Option State :=
  if launchWellFormed c font program then
    some { State.reset with cfg := c, mem := initMemory font program, events := es }
  else none

end Sys2Proof.Machine
end

