-- ==== Sys2Proof/Safety.lean ====
section
/-! DEFINITION. What counts as a safe run (spec/60_exceptions.md R175, R176, spec/70_reset_and_hazards.md R203, R207): the reachable states, the faulted ones, the end of a run, the obligations that the core does not check, and the invariant of the machine. -/

namespace Sys2Proof.Machine

/-- A HALTED core has met a fatal condition: it is a fault, never a final state of a correct run (R175, R207). -/
def State.faulted (s : State) : Bool :=
  s.status == .halted

/-- The state an Init gives or that a step leads to from such a state. -/
inductive Reachable : State → Prop where
  | init {c : Configuration} {font program : List Byte} {es : List Event} {s : State} :
      State.init c font program es = some s → Reachable s
  | step {s t : State} : Reachable s → Sys2Proof.Machine.step s = .next t → Reachable t

/-- DESIGN CHOICE (assumption 36): the end of a run. The spec defines none and has a model define its own (R207, N29 of
spec/91_not_in_source.md); this model takes exactly a RUNNING core whose word at PC is a 1nnn to its own address. No step looks
at it. -/
def State.atSelfJump (s : State) : Bool :=
  s.status == .running && decide (s.pc.toNat ≤ lastFetch) &&
    (match decodeWord s.fetchWord with
    | some (.jpAddr nnn) => zextAddr nnn == s.pc
    | _ => false)

/-- The next fetch is inside the program region: R203's "never execute below 0x200", which the core does not check (R48). -/
def State.fetchesInProgram (s : State) : Bool :=
  regionOf s.pc.toNat == some .program

/-- The instruction at PC is a store that begins below the program region (R48, R203: not checked by the core). -/
def State.storesBelowProgram (s : State) : Bool :=
  match decodeWord s.fetchWord with
  | some (.ldBVx _) => decide (s.i.toNat < programBase)
  | some (.ldMemVx _) => decide (s.i.toNat < programBase)
  | _ => false

/-- The program has met no fatal condition and keeps the obligations of R203 that the core does not check. -/
def State.keepsObligations (s : State) : Bool :=
  !s.faulted && s.fetchesInProgram && !s.storesBelowProgram

/-- What every reachable state satisfies and every step keeps: memory in its canonical form; PC in the range of R14; the
stack's entries are addresses that a CALL pushed (R14, R15) and no more than a finite STACK_DEPTH; a HALTED core has a cause
of R171. -/
structure State.Inv (s : State) : Prop where
  memory : s.mem.wf = true
  pcRange : s.pc.toNat ≤ 0x10FE
  stackRange : ∀ a ∈ s.stack, 2 ≤ a.toNat ∧ a.toNat ≤ 0x1000
  stackDepth : ∀ d, s.cfg.stackDepth = some d → s.stack.length ≤ d
  haltCause : s.status = .halted → 1 ≤ s.haltCause.toNat ∧ s.haltCause.toNat ≤ 4

end Sys2Proof.Machine
end

