-- ==== Sys2Proof/Certificates/Slice0/Obligations.lean ====
section
/-! DEFINITION. The statements for the provers: what the numbered rules of spec/ say the machine does. Each docstring names the rule, and, where the statement leans on a decision of the spec's own (spec/92_eei_decisions.md D<n>) or of the model's (notes/assumptions), that decision. -/

open Sys2Proof Sys2Proof.Machine

namespace Sys2Proof.Claims

/-! ## What the statements say with -/

/-- The registers an instruction may write: its destination, the registers 0 to x of Fx65, and VF for the flag writers of
spec/10_state.md R11. -/
def mayWriteV : Instr → Reg → Bool
  | .ldVxByte x _, k => k == x
  | .addVxByte x _, k => k == x
  | .ldVxVy x _, k => k == x
  | .orVxVy x _, k => k == x || k == 15
  | .andVxVy x _, k => k == x || k == 15
  | .xorVxVy x _, k => k == x || k == 15
  | .addVxVy x _, k => k == x || k == 15
  | .subVxVy x _, k => k == x || k == 15
  | .subnVxVy x _, k => k == x || k == 15
  | .shrVxVy x _, k => k == x || k == 15
  | .shlVxVy x _, k => k == x || k == 15
  | .rndVxByte x _, k => k == x
  | .drwVxVyN _ _ _, k => k == 15
  | .ldVxDt x, k => k == x
  | .ldVxK x, k => k == x
  | .ldVxMem x, k => decide (k ≤ x)
  | _, _ => false

/-- The writers of I (spec/10_state.md R12, R32). -/
def writesI : Instr → Bool
  | .ldIAddr _ | .addIVx _ | .ldFVx _ | .ldMemVx _ | .ldVxMem _ => true
  | _ => false

/-- The instructions that write PC in their execute phase (spec/10_state.md R13, R32). -/
def writesPc : Instr → Bool
  | .ret | .jpAddr _ | .callAddr _ | .jpV0Addr _ | .seVxByte _ _ | .sneVxByte _ _ | .seVxVy _ _ | .sneVxVy _ _ => true
  | .skpVx _ | .sknpVx _ | .ldVxK _ => true
  | _ => false

/-- The writers of main memory (spec/10_state.md R16, R32). -/
def writesMem : Instr → Bool
  | .ldBVx _ | .ldMemVx _ => true
  | _ => false

/-- CLS and DRW, the only writers of the framebuffer and setters of draw_req (spec/10_state.md R17, R20, R32). -/
def writesFb : Instr → Bool
  | .cls | .drwVxVyN _ _ _ => true
  | _ => false

/-- CALL and RET, the only instructions that reach the stack (spec/10_state.md R15, R32). -/
def writesStack : Instr → Bool
  | .ret | .callAddr _ => true
  | _ => false

/-- The instructions that can raise a fatal condition (spec/60_exceptions.md R171, R173). -/
def canHalt : Instr → Bool
  | .ret | .callAddr _ | .drwVxVyN _ _ _ | .ldBVx _ | .ldMemVx _ | .ldVxMem _ => true
  | _ => false

/-- The instructions whose effect a quirk signal changes (spec/45_quirk_dispatch.md R160). -/
def consultsMode : Instr → Bool
  | .shrVxVy _ _ | .shlVxVy _ _ | .jpV0Addr _ | .drwVxVyN _ _ _ | .ldMemVx _ | .ldVxMem _ => true
  | .orVxVy _ _ | .andVxVy _ _ | .xorVxVy _ _ => true
  | _ => false

/-- The readers of `keys_held` (spec/10_state.md R22). -/
def readsKeysHeld : Instr → Bool
  | .skpVx _ | .sknpVx _ => true
  | _ => false

/-- The reader of `key_event` (spec/10_state.md R23). -/
def readsKeyEvent : Instr → Bool
  | .ldVxK _ => true
  | _ => false

/-- The reader of `rnd` (spec/10_state.md R24). -/
def readsRnd : Instr → Bool
  | .rndVxByte _ _ => true
  | _ => false

/-- The same state in another compatibility mode. -/
def inMode (m : Mode) (s : State) : State :=
  { s with cfg := { s.cfg with mode := m } }

/-- The pixel (`px`, `py`) of the screen lies under a 1 bit of the sprite that DRW Vx,Vy,n draws from `s`: bit 7 - c of the
byte at I + r, at column x0 + c and row y0 + r, wrapped in XOCHIP and clipped in the other modes (spec/43_display.md R141,
R142, spec/45_quirk_dispatch.md R163). -/
def underSprite (s : State) (x y : Reg) (n : Nibble) (px py : Nat) : Prop :=
  ∃ r c : Nat, r < n.toNat ∧ c < 8 ∧ (Memory.read s.mem (s.i.toNat + r)).getLsbD (7 - c) = true ∧
    (if s.cfg.mode = .xochip then
      ((s.getV x).toNat % 64 + c) % 64 = px ∧ ((s.getV y).toNat % 32 + r) % 32 = py
    else (s.getV x).toNat % 64 + c = px ∧ (s.getV y).toNat % 32 + r = py)

/-- The core's own state in `t` is that of `s`; the tape, the free-value counter, the input ports and the strobes may
differ (spec/00_scope.md R8, spec/10_state.md R26). -/
def sameCore (s t : State) : Prop :=
  t = { s with
    events := t.events, draws := t.draws, inputs := t.inputs, unknownOp := t.unknownOp, keyTaken := t.keyTaken }

/-- The value that Q_MEM_I_INC adds to I after Fx55 and Fx65 (spec/45_quirk_dispatch.md R164). -/
def iStep (s : State) (x : Reg) : Nat :=
  match s.cfg.memIInc.get s.cfg.mode with
  | .none => 0
  | .byOne => 1
  | .byCount => x.val + 1

end Sys2Proof.Claims

open Sys2Proof.Claims

/-! ## Encoding -/

/-- spec/30_encoding.md R61, R62, R65: every instruction is two bytes, and decoding them gives it back with every operand,
whatever bytes follow. -/
def Obligations.DecodeOfEncode : Prop :=
  ∀ (i : Instr) (rest : List Byte), decode (encode i ++ rest) = .ok (i, rest) ∧ (encode i).length = 2

/-- spec/30_encoding.md R61, R65: the word of a decoded instruction is the word it was decoded from; no bit is dropped. -/
def Obligations.EncodeOfDecode : Prop :=
  ∀ (w : Word) (i : Instr), decodeWord w = some i → encodeWord i = w

/-- spec/30_encoding.md R65: the decoder selects by the table of match and mask. -/
def Obligations.DecoderFollowsTable : Prop :=
  opcodeTable.length = 34 ∧
  (∀ r ∈ opcodeTable, ∀ r' ∈ opcodeTable, ∀ w : Word, w &&& r.mask = r.pattern → w &&& r'.mask = r'.pattern → r = r') ∧
  (∀ (w : Word) (i : Instr), decodeWord w = some i →
    ∃ r ∈ opcodeTable, r.number = rowNumber i ∧ w &&& r.mask = r.pattern) ∧
  (∀ w : Word, decodeWord w = none ↔ ∀ r ∈ opcodeTable, w &&& r.mask ≠ r.pattern)

/-- spec/30_encoding.md section 5 (R66): the words that no instruction has, family by family. -/
def Obligations.UnknownWordSets : Prop :=
  ∀ w : Word, decodeWord w = none ↔
    (w.toNat / 4096 = 0 ∧ w ≠ 0x00E0 ∧ w ≠ 0x00EE) ∨
    (w.toNat / 4096 = 5 ∧ w.toNat % 16 ≠ 0) ∨
    (w.toNat / 4096 = 8 ∧ w.toNat % 16 ∈ [8, 9, 0xA, 0xB, 0xC, 0xD, 0xF]) ∨
    (w.toNat / 4096 = 9 ∧ w.toNat % 16 ≠ 0) ∨
    (w.toNat / 4096 = 0xE ∧ w.toNat % 256 ∉ [0x9E, 0xA1]) ∨
    (w.toNat / 4096 = 0xF ∧ w.toNat % 256 ∉ [0x07, 0x0A, 0x15, 0x18, 0x1E, 0x29, 0x33, 0x55, 0x65])

/-- spec/30_encoding.md R61: the six fields, derived from every word. -/
def Obligations.FieldsOfWord : Prop :=
  ∀ w : Word, (fieldsOf w).op.toNat = w.toNat / 4096 ∧ (fieldsOf w).x.val = w.toNat / 256 % 16 ∧
    (fieldsOf w).y.val = w.toNat / 16 % 16 ∧ (fieldsOf w).n.toNat = w.toNat % 16 ∧
    (fieldsOf w).nn.toNat = 16 * (fieldsOf w).y.val + (fieldsOf w).n.toNat ∧
    (fieldsOf w).nnn.toNat = 256 * (fieldsOf w).x.val + 16 * (fieldsOf w).y.val + (fieldsOf w).n.toNat

/-- spec/30_encoding.md R65, spec/95_test_vectors.md: a word of each family, written out from its encoding. -/
def Obligations.SampleWordsDecode : Prop :=
  decodeWord 0x00E0 = some .cls ∧ decodeWord 0x1204 = some (.jpAddr 0x204) ∧
  decodeWord 0x3014 = some (.seVxByte 0 0x14) ∧ decodeWord 0x8127 = some (.subnVxVy 1 2) ∧
  decodeWord 0xB2FF = some (.jpV0Addr 0x2FF) ∧ decodeWord 0xC30F = some (.rndVxByte 3 0x0F) ∧
  decodeWord 0xD01F = some (.drwVxVyN 0 1 0xF) ∧ decodeWord 0xE19E = some (.skpVx 1) ∧
  decodeWord 0xF333 = some (.ldBVx 3) ∧ decodeWord 0x01E0 = none ∧ decodeWord 0xF000 = none

/-! ## The Step and the other events -/

/-- spec/20_memory.md R42: the instruction word at PC is big-endian. -/
def Obligations.FetchIsBigEndian : Prop :=
  ∀ s : State, s.fetchWord.toNat =
    256 * (Memory.read s.mem s.pc.toNat).toNat + (Memory.read s.mem (s.pc.toNat + 1)).toNat

/-- spec/30_encoding.md R60: a Step on a RUNNING core with PC ≤ 0xFFE runs the decoded instruction with PC advanced by 2 and the
inputs the Step brings, whether the tape gives the Step (first clause) or the free event is one (second clause, which holds for
both). The tape and the free events are the model's (assumptions 2 and 3). -/
def Obligations.StepRunsDecodedInstruction : Prop :=
  ∀ (s : State) (i : Instr), s.status = .running → s.pc.toNat ≤ 0xFFE → decodeWord s.fetchWord = some i →
    (∀ inp es, s.events = .step inp :: es →
      step s = exec i
        { s with pc := s.pc + 2, inputs := inp, events := es, unknownOp := none, keyTaken := false }) ∧
    (∀ inp, s.nextEvent = .step inp →
      step s = exec i
        { s with
          pc := s.pc + 2, inputs := inp, events := s.takeEvent.events, draws := s.takeEvent.draws
          unknownOp := none, keyTaken := false })

/-- spec/00_scope.md section 5 (R7), with the spec's decision D1: the driver's events are issued one at a time in whatever order
the tape `es` has them, none added and none left out, and the run goes on beyond it. Beyond the tape a step is the step of the
free event, any of the four, whose number is used up; so no order of events and no ratio of Steps to Ticks is excluded, for a
run of any length. The tape and the free events are the model's (assumptions 2 and 3). -/
def Obligations.EventsComeInAnyOrder : Prop :=
  (∀ (es rest : List Event) (s : State), s.events = es ++ rest →
    ∃ t, Host.Core.run Sys2Proof.core es.length s = .next t ∧ t.events = rest ∧ t.draws = s.draws) ∧
  (∀ s : State, s.events = [] →
    step s = step { s with events := [s.freeEvent], draws := s.draws + 1 } ∧
    (∃ t, step s = .next t ∧ t.events = [] ∧ t.draws = s.draws + 1) ∧
    s.freeEvent = (match Config.freeEventKind s.draws with
      | .step => .step ⟨Config.freeKeysHeld s.draws, Config.freeKeyEvent s.draws, Config.freeRnd s.draws⟩
      | .tick => .tick
      | .clearDrawRequest => .clearDrawRequest
      | .clearSoundRequest => .clearSoundRequest))

/-- spec/40_flow.md R88: an UNKNOWN word is a no-op with a report; it never halts the core. -/
def Obligations.UnknownWordIsReportedNoOp : Prop :=
  ∀ (s : State) (inp : StepInputs), s.status = .running → s.pc.toNat ≤ 0xFFE →
    decodeWord s.fetchWord = none → s.nextEvent = .step inp →
    ∃ t, step s = .next t ∧ t.pc = s.pc + 2 ∧ t.unknownOp = some ⟨s.fetchWord, s.pc⟩ ∧
      t = { s with
        pc := t.pc, inputs := inp, events := s.takeEvent.events, draws := s.takeEvent.draws
        unknownOp := t.unknownOp, keyTaken := false }

/-- spec/20_memory.md section 2 (R44), spec/60_exceptions.md R171, R172, R175, with the spec's decisions D2, D3, D4 and D30: a
fetch from PC > 0xFFE halts the core and changes nothing else, PC included. -/
def Obligations.FetchPastMemoryHalts : Prop :=
  ∀ (s : State) (inp : StepInputs), s.status = .running → 0xFFE < s.pc.toNat →
    s.nextEvent = .step inp →
    step s = .next { s with
      status := .halted, haltCause := 2
      haltInfo := ⟨s.pc, 0, BitVec.ofNat 17 (max s.pc.toNat 0x1000)⟩
      inputs := inp, events := s.takeEvent.events, draws := s.takeEvent.draws
      unknownOp := none, keyTaken := false }

/-- spec/60_exceptions.md section 2 (R176), with the spec's decision D2: a HALTED core ignores every event, for any number of
events. That the driver's tape and counter move and the strobes end is the model's (assumption 27). -/
def Obligations.HaltedCoreIgnoresEvents : Prop :=
  ∀ (k : Nat) (s : State), s.status = .halted → ∃ t, Host.Core.run Sys2Proof.core k s = .next t ∧ sameCore s t

/-- spec/60_exceptions.md section 6 (R183), with the spec's decision D20: one Tick. -/
def Obligations.TickCountsDown : Prop :=
  ∀ s : State, s.status = .running → s.nextEvent = .tick →
    ∃ t, step s = .next t ∧ t.dt.toNat = s.dt.toNat - 1 ∧ t.st.toNat = s.st.toNat - 1 ∧
      t.soundReq = (s.soundReq || decide (0 < s.st.toNat)) ∧
      t = { s with
        dt := t.dt, st := t.st, soundReq := t.soundReq, events := s.takeEvent.events, draws := s.takeEvent.draws
        unknownOp := none, keyTaken := false }

/-- spec/60_exceptions.md section 6 (R183): after `k` Ticks each timer has lost `k` and stopped at 0, and a sound request stands
when one stood before or a Tick found ST nonzero (S9, K1, K2 of spec/95_test_vectors.md; decision D20). -/
def Obligations.TimersReachZeroAndStay : Prop :=
  ∀ (k : Nat) (s : State) (es : List Event), s.status = .running → s.events = List.replicate k .tick ++ es →
    ∃ t, Host.Core.run Sys2Proof.core k s = .next t ∧ t.dt.toNat = s.dt.toNat - k ∧ t.st.toNat = s.st.toNat - k ∧
      t.soundReq = (s.soundReq || decide (0 < k ∧ 0 < s.st.toNat)) ∧ t.events = es ∧ t.pc = s.pc ∧ t.v = s.v

/-- spec/60_exceptions.md section 6 (R185), with the spec's decision D21: each clear event clears its flag and nothing else. -/
def Obligations.ClearEventsClearTheirFlag : Prop :=
  ∀ s : State, s.status = .running →
    (s.nextEvent = .clearDrawRequest →
      step s = .next { s with
        drawReq := false, events := s.takeEvent.events, draws := s.takeEvent.draws
        unknownOp := none, keyTaken := false }) ∧
    (s.nextEvent = .clearSoundRequest →
      step s = .next { s with
        soundReq := false, events := s.takeEvent.events, draws := s.takeEvent.draws
        unknownOp := none, keyTaken := false })

/-- spec/10_state.md section 7 (R20), with the spec's decision D21: a request flag stays set until its own clear event. -/
def Obligations.RequestFlagsAreSticky : Prop :=
  ∀ s t : State, step s = .next t →
    (s.drawReq = true → s.nextEvent ≠ .clearDrawRequest → t.drawReq = true) ∧
    (s.soundReq = true → s.nextEvent ≠ .clearSoundRequest → t.soundReq = true)

/-- spec/00_scope.md section 5 (R8): a Step looks at no input or strobe that an earlier event left (the ports are the model's
fields, assumption 4). -/
def Obligations.StepIgnoresOldPorts : Prop :=
  ∀ (s : State) (inp old : StepInputs) (u : Option UnknownReport) (k : Bool),
    s.status = .running → s.nextEvent = .step inp →
    step { s with inputs := old, unknownOp := u, keyTaken := k } = step s

/-- The host's interface (assumption 11): a word placed by `withFetchWord` is the one the very next step fetches and runs, and the
rest of the core is as it was. -/
def Obligations.PlacedWordRunsNext : Prop :=
  ∀ (s : State) (i : Instr), s.mem.wf = true →
    ∃ u, step (s.withFetchWord 16 (encodeWord i).toNat) = exec i u ∧
      u.v = s.v ∧ u.i = s.i ∧ u.stack = s.stack ∧ u.fb = s.fb ∧ u.dt = s.dt ∧ u.st = s.st ∧ u.drawReq = s.drawReq ∧
      u.soundReq = s.soundReq ∧ u.cfg = s.cfg ∧ u.status = .running ∧ (s.pc.toNat ≤ 0xFFE → u.pc = s.pc + 2) ∧
      ∀ a, a < u.pc.toNat - 2 ∨ u.pc.toNat ≤ a → Memory.read u.mem a = Memory.read s.mem a

/-! ## Control transfer -/

/-- spec/40_flow.md R81. -/
def Obligations.JpSetsPc : Prop :=
  ∀ (nnn : Addr12) (s : State), ∃ t, exec (.jpAddr nnn) s = .next t ∧ t.pc.toNat = nnn.toNat ∧ t = { s with pc := t.pc }

/-- spec/40_flow.md section CALL (R82), with the spec's decisions D2, D3, D8 and D30 for the overflow of a finite stack. -/
def Obligations.CallPushesReturnAddress : Prop :=
  ∀ (nnn : Addr12) (s : State),
    (s.cfg.stackDepth ≠ some s.stack.length →
      ∃ t, exec (.callAddr nnn) s = .next t ∧ t.stack = s.stack ++ [s.pc] ∧ t.pc.toNat = nnn.toNat ∧
        t = { s with stack := t.stack, pc := t.pc }) ∧
    (s.cfg.stackDepth = some s.stack.length →
      exec (.callAddr nnn) s = .next { s with
        status := .halted, haltCause := 4
        haltInfo := ⟨s.pc - 2, encodeWord (.callAddr nnn), s.pc.setWidth 17⟩ })

/-- spec/40_flow.md section RET (R80), with the spec's decisions D2, D3 and D30 for the underflow. -/
def Obligations.RetPopsReturnAddress : Prop :=
  ∀ s : State,
    (∀ as a, s.stack = as ++ [a] → exec .ret s = .next { s with stack := as, pc := a }) ∧
    (s.stack = [] →
      exec .ret s = .next { s with
        status := .halted, haltCause := 1, haltInfo := ⟨s.pc - 2, 0x00EE, 0⟩ })

/-- spec/40_flow.md section RET (R80, R82): a RET after a CALL resumes at the instruction after the CALL and leaves the stack as
it was. -/
def Obligations.RetUndoesCall : Prop :=
  ∀ (nnn : Addr12) (s : State), s.cfg.stackDepth ≠ some s.stack.length →
    ∃ t u, exec (.callAddr nnn) s = .next t ∧ exec .ret t = .next u ∧ u = s

/-- spec/40_flow.md R83, R84, R85, R86: the four skips. -/
def Obligations.SkipsTestTheirOperands : Prop :=
  ∀ (x y : Reg) (nn : Byte) (s : State),
    exec (.seVxByte x nn) s = .next { s with pc := if s.getV x = nn then s.pc + 2 else s.pc } ∧
    exec (.sneVxByte x nn) s = .next { s with pc := if s.getV x ≠ nn then s.pc + 2 else s.pc } ∧
    exec (.seVxVy x y) s = .next { s with pc := if s.getV x = s.getV y then s.pc + 2 else s.pc } ∧
    exec (.sneVxVy x y) s = .next { s with pc := if s.getV x ≠ s.getV y then s.pc + 2 else s.pc }

/-- spec/40_flow.md section JP V0 (R87, R162), with the spec's decision D25: the sum is not reduced. -/
def Obligations.JpV0AddsRegister : Prop :=
  ∀ (nnn : Addr12) (s : State), ∃ t, exec (.jpV0Addr nnn) s = .next t ∧
    t.pc.toNat = nnn.toNat +
      (if s.cfg.mode = .legacy then s.getV 0 else s.getV (fieldsOf (encodeWord (.jpV0Addr nnn))).x).toNat ∧
    (fieldsOf (encodeWord (.jpV0Addr nnn))).x.val = nnn.toNat / 256 ∧
    t = { s with pc := t.pc }

/-! ## Registers, arithmetic and logic -/

/-- spec/41_alu.md R100, R102: the loads write their destination register alone. -/
def Obligations.RegisterLoads : Prop :=
  ∀ (x y : Reg) (nn : Byte) (s : State),
    (∃ t, exec (.ldVxByte x nn) s = .next t ∧ (∀ k, t.getV k = if k = x then nn else s.getV k) ∧
      t = { s with v := t.v }) ∧
    (∃ t, exec (.ldVxVy x y) s = .next t ∧ (∀ k, t.getV k = if k = x then s.getV y else s.getV k) ∧
      t = { s with v := t.v })

/-- spec/41_alu.md R101: modulo 256, no flag; with x = 0xF, VF receives the sum as data. -/
def Obligations.AddByteWritesNoFlag : Prop :=
  ∀ (x : Reg) (nn : Byte) (s : State), ∃ t, exec (.addVxByte x nn) s = .next t ∧
    (t.getV x).toNat = ((s.getV x).toNat + nn.toNat) % 256 ∧ (∀ k, k ≠ x → t.getV k = s.getV k) ∧ t = { s with v := t.v }

/-- spec/41_alu.md sections 1 and 3 (R103, R104, R105, R165), with the spec's decisions D10 and D11: the logic instructions, for
both values of QUIRK_LOGIC_VF_RESET, VF as destination included. -/
def Obligations.LogicInstructions : Prop :=
  ∀ (x y : Reg) (s : State), ∀ p ∈ [(Instr.orVxVy x y, s.getV x ||| s.getV y), (Instr.andVxVy x y, s.getV x &&& s.getV y),
      (Instr.xorVxVy x y, s.getV x ^^^ s.getV y)],
    ∃ t, exec p.1 s = .next t ∧
      (∀ k, t.getV k =
        if k = 15 ∧ s.cfg.logicVfReset.get s.cfg.mode = true then 0 else if k = x then p.2 else s.getV k) ∧
      t = { s with v := t.v }

/-- spec/41_alu.md R113: the integer arithmetic laws. The flag holds for every destination; the result is stated for a
destination other than VF, where the flag does not overwrite it (`FlagWinsOverResult`). The value SHR and SHL shift is R161's. -/
def Obligations.IntegerArithmeticLaws : Prop :=
  ∀ (x y : Reg) (nn : Byte) (s : State),
    (∃ t, exec (.addVxVy x y) s = .next t ∧
      (x ≠ 15 → (t.getV x).toNat = ((s.getV x).toNat + (s.getV y).toNat) % 256) ∧
      t.getV 15 = (if 255 < (s.getV x).toNat + (s.getV y).toNat then 1 else 0) ∧
      (∀ k, k ≠ x → k ≠ 15 → t.getV k = s.getV k) ∧ t = { s with v := t.v }) ∧
    (∃ t, exec (.subVxVy x y) s = .next t ∧
      (x ≠ 15 → (t.getV x).toNat = (256 + (s.getV x).toNat - (s.getV y).toNat) % 256) ∧
      t.getV 15 = (if (s.getV y).toNat ≤ (s.getV x).toNat then 1 else 0) ∧
      (∀ k, k ≠ x → k ≠ 15 → t.getV k = s.getV k) ∧ t = { s with v := t.v }) ∧
    (∃ t, exec (.subnVxVy x y) s = .next t ∧
      (x ≠ 15 → (t.getV x).toNat = (256 + (s.getV y).toNat - (s.getV x).toNat) % 256) ∧
      t.getV 15 = (if (s.getV x).toNat ≤ (s.getV y).toNat then 1 else 0) ∧
      (∀ k, k ≠ x → k ≠ 15 → t.getV k = s.getV k) ∧ t = { s with v := t.v }) ∧
    (∀ a : Byte, a = (if s.cfg.mode = .schip then s.getV x else s.getV y) →
      (∃ t, exec (.shrVxVy x y) s = .next t ∧ (x ≠ 15 → (t.getV x).toNat = a.toNat / 2) ∧
        (t.getV 15).toNat = a.toNat % 2 ∧
        (∀ k, k ≠ x → k ≠ 15 → t.getV k = s.getV k) ∧ t = { s with v := t.v }) ∧
      (∃ t, exec (.shlVxVy x y) s = .next t ∧ (x ≠ 15 → (t.getV x).toNat = 2 * a.toNat % 256) ∧
        (t.getV 15).toNat = a.toNat / 128 ∧
        (∀ k, k ≠ x → k ≠ 15 → t.getV k = s.getV k) ∧ t = { s with v := t.v })) ∧
    (x ≠ 15 → ∃ t, exec (.addVxByte x nn) s = .next t ∧ t.getV 15 = s.getV 15) ∧
    (∃ t, exec (.addIVx x) s = .next t ∧ t.getV 15 = s.getV 15)

/-- spec/41_alu.md section 1 (R112), with the spec's decision D10: with VF as the destination (x = 0xF) the flag, computed from the
old operands, is what VF holds afterwards; the result is lost. -/
def Obligations.FlagWinsOverResult : Prop :=
  ∀ (y : Reg) (s : State),
    ∀ p ∈ [(Instr.addVxVy 15 y, decide (255 < (s.getV 15).toNat + (s.getV y).toNat)),
      (Instr.subVxVy 15 y, decide ((s.getV y).toNat ≤ (s.getV 15).toNat)),
      (Instr.subnVxVy 15 y, decide ((s.getV 15).toNat ≤ (s.getV y).toNat)),
      (Instr.shrVxVy 15 y, (if s.cfg.mode = .schip then s.getV 15 else s.getV y).getLsbD 0),
      (Instr.shlVxVy 15 y, (if s.cfg.mode = .schip then s.getV 15 else s.getV y).getLsbD 7)],
    ∃ t, exec p.1 s = .next t ∧ t.getV 15 = (if p.2 then 1 else 0) ∧ (∀ k, k ≠ 15 → t.getV k = s.getV k) ∧
      t = { s with v := t.v }

/-- spec/41_alu.md R111: the random input, masked, to V[x]. -/
def Obligations.RndMasksTheRandomByte : Prop :=
  ∀ (x : Reg) (nn : Byte) (s : State), ∃ t, exec (.rndVxByte x nn) s = .next t ∧
    (∀ k, t.getV k = if k = x then s.inputs.rnd &&& nn else s.getV k) ∧ t = { s with v := t.v }

/-! ## Index register, loads and stores -/

/-- spec/42_index_memory.md R120. -/
def Obligations.LoadIndex : Prop :=
  ∀ (nnn : Addr12) (s : State), ∃ t, exec (.ldIAddr nnn) s = .next t ∧ t.i.toNat = nnn.toNat ∧ t = { s with i := t.i }

/-- spec/42_index_memory.md sections ADD I and LD F (R121, R122), with the spec's decisions D7 (the sum modulo 65536, no flag) and
D13 (5 times the whole byte, no masking). -/
def Obligations.IndexArithmetic : Prop :=
  ∀ (x : Reg) (s : State),
    (∃ t, exec (.addIVx x) s = .next t ∧ t.i.toNat = (s.i.toNat + (s.getV x).toNat) % 65536 ∧ t = { s with i := t.i }) ∧
    (∃ t, exec (.ldFVx x) s = .next t ∧ t.i.toNat = 5 * (s.getV x).toNat ∧ t = { s with i := t.i })

/-- spec/42_index_memory.md section LD B (R123): the three digits at I, I + 1, I + 2, and no other byte changed. The bound on I is
the spec's decision D5. -/
def Obligations.StoreBcd : Prop :=
  ∀ (x : Reg) (s : State), s.mem.wf = true → s.i.toNat + 2 ≤ 0xFFF →
    ∃ t, exec (.ldBVx x) s = .next t ∧
      (Memory.read t.mem s.i.toNat).toNat = (s.getV x).toNat / 100 ∧
      (Memory.read t.mem (s.i.toNat + 1)).toNat = (s.getV x).toNat / 10 % 10 ∧
      (Memory.read t.mem (s.i.toNat + 2)).toNat = (s.getV x).toNat % 10 ∧
      (∀ a, a < s.i.toNat ∨ s.i.toNat + 2 < a → Memory.read t.mem a = Memory.read s.mem a) ∧
      t = { s with mem := t.mem }

/-- spec/42_index_memory.md section LD [I] (R124, R164): registers 0 to x at I to I + x, no other byte changed, then I moved by
QUIRK_MEM_I_INC. The bound on I is the spec's decision D5, the parameter D12. -/
def Obligations.StoreRegisters : Prop :=
  ∀ (x : Reg) (s : State), s.mem.wf = true → s.i.toNat + x.val ≤ 0xFFF →
    ∃ t, exec (.ldMemVx x) s = .next t ∧
      (∀ k : Reg, k ≤ x → Memory.read t.mem (s.i.toNat + k.val) = s.getV k) ∧
      (∀ a, a < s.i.toNat ∨ s.i.toNat + x.val < a → Memory.read t.mem a = Memory.read s.mem a) ∧
      t.i.toNat = (s.i.toNat + iStep s x) % 65536 ∧ t = { s with mem := t.mem, i := t.i }

/-- spec/42_index_memory.md section LD Vx,[I] (R125, R164): registers 0 to x from I to I + x, the others kept, memory unchanged,
then I moved by QUIRK_MEM_I_INC. The bound on I is the spec's decision D5, the parameter D12. -/
def Obligations.LoadRegisters : Prop :=
  ∀ (x : Reg) (s : State), s.i.toNat + x.val ≤ 0xFFF →
    ∃ t, exec (.ldVxMem x) s = .next t ∧
      (∀ k : Reg, k ≤ x → t.getV k = Memory.read s.mem (s.i.toNat + k.val)) ∧
      (∀ k : Reg, x < k → t.getV k = s.getV k) ∧
      t.i.toNat = (s.i.toNat + iStep s x) % 65536 ∧ t = { s with v := t.v, i := t.i }

/-- spec/20_memory.md section 2 (R47), spec/60_exceptions.md R171, R172, R175, with the spec's decisions D2, D3, D5, D6 and D30: an
access range that leaves the memory halts the core with the lowest out-of-range address, and nothing else changes. -/
def Obligations.DataAccessPastMemoryHalts : Prop :=
  ∀ (x y : Reg) (n : Nibble) (s : State),
    ∀ p ∈ [(Instr.ldBVx x, 3), (Instr.ldMemVx x, x.val + 1), (Instr.ldVxMem x, x.val + 1),
      (Instr.drwVxVyN x y n, n.toNat)],
    0 < p.2 → 0xFFF < s.i.toNat + (p.2 - 1) →
    exec p.1 s = .next { s with
      status := .halted, haltCause := 3
      haltInfo := ⟨s.pc - 2, encodeWord p.1, BitVec.ofNat 17 (max s.i.toNat 0x1000)⟩ }

/-- spec/42_index_memory.md section LD Vx,[I] (R124, R125, S5 of spec/95_test_vectors.md): a store, then a load with I back at its
value, whatever the registers hold in between, gives back the registers stored. -/
def Obligations.LoadAfterStoreRestores : Prop :=
  ∀ (x : Reg) (s : State) (w : Vector Byte 16), s.mem.wf = true → s.i.toNat + x.val ≤ 0xFFF →
    ∃ t u, exec (.ldMemVx x) s = .next t ∧ exec (.ldVxMem x) { t with i := s.i, v := w } = .next u ∧
      ∀ k : Reg, k ≤ x → u.getV k = s.getV k

/-- spec/20_memory.md section 3 (R53): a store is seen by the next fetch from the address stored to; the word is V0 and V1, high
byte first (R42). -/
def Obligations.StoredCodeIsFetched : Prop :=
  ∀ (x : Reg) (s : State), s.mem.wf = true → 1 ≤ x.val → s.i.toNat + x.val ≤ 0xFFF →
    ∃ t, exec (.ldMemVx x) s = .next t ∧ State.fetchWord { t with pc := s.i } = s.getV 0 ++ s.getV 1

/-! ## Display -/

/-- spec/43_display.md R140: every cell off, draw_req set, nothing else changed. -/
def Obligations.ClsClearsEveryCell : Prop :=
  ∀ s : State, ∃ t, exec .cls s = .next t ∧ (∀ k, k < 2048 → t.fb.cell k = false) ∧ t.drawReq = true ∧
    t = { s with fb := t.fb, drawReq := t.drawReq }

/-- spec/43_display.md (R141, R142), spec/45_quirk_dispatch.md R163, with the spec's decisions D5, D15 and D16: DRW flips exactly
the pixels under the sprite's 1 bits, VF is 1 exactly when one of them was on, and nothing else changes. -/
def Obligations.DrwFlipsThePixelsUnderTheSprite : Prop :=
  ∀ (x y : Reg) (n : Nibble) (s : State), n = 0 ∨ s.i.toNat + (n.toNat - 1) ≤ 0xFFF →
    ∃ t, exec (.drwVxVyN x y n) s = .next t ∧
      (∀ px py, px < 64 → py < 32 →
        (underSprite s x y n px py → t.fb.cell (px + 64 * py) = !s.fb.cell (px + 64 * py)) ∧
        (¬ underSprite s x y n px py → t.fb.cell (px + 64 * py) = s.fb.cell (px + 64 * py))) ∧
      ((∃ px py, px < 64 ∧ py < 32 ∧ underSprite s x y n px py ∧ s.fb.cell (px + 64 * py) = true) → t.getV 15 = 1) ∧
      ((∀ px py, px < 64 → py < 32 → underSprite s x y n px py → s.fb.cell (px + 64 * py) = false) → t.getV 15 = 0) ∧
      (∀ k, k ≠ 15 → t.getV k = s.getV k) ∧ t.drawReq = true ∧ t = { s with v := t.v, fb := t.fb, drawReq := t.drawReq }

/-- spec/43_display.md corner case (f) (R141, S4 of spec/95_test_vectors.md): the same sprite drawn twice at the same place
restores the framebuffer. The registers are put back because VF may name a coordinate. -/
def Obligations.DrawingTwiceRestores : Prop :=
  ∀ (x y : Reg) (n : Nibble) (s : State), n = 0 ∨ s.i.toNat + (n.toNat - 1) ≤ 0xFFF →
    ∃ t u, exec (.drwVxVyN x y n) s = .next t ∧ exec (.drwVxVyN x y n) { t with v := s.v } = .next u ∧ u.fb = s.fb

/-! ## Keys and timers -/

/-- spec/44_keys_timers.md sections SKP and SKNP (R150, R151), with the spec's decision D14: a value above 0xF names no key and is
not held. -/
def Obligations.KeySkips : Prop :=
  ∀ (x : Reg) (s : State),
    let held := (s.getV x).toNat ≤ 0xF ∧ s.inputs.keysHeld.getLsbD (s.getV x).toNat = true
    (held → exec (.skpVx x) s = .next { s with pc := s.pc + 2 } ∧ exec (.sknpVx x) s = .next s) ∧
    (¬ held → exec (.skpVx x) s = .next s ∧ exec (.sknpVx x) s = .next { s with pc := s.pc + 2 })

/-- spec/44_keys_timers.md R152: a key event goes to V[x] and raises key_taken; without one PC goes back by 2. -/
def Obligations.KeyWaitPolls : Prop :=
  ∀ (x : Reg) (s : State),
    (∀ key : Key, s.inputs.keyEvent = some key →
      ∃ t, exec (.ldVxK x) s = .next t ∧ (t.getV x).toNat = key.val ∧ (∀ k, k ≠ x → t.getV k = s.getV k) ∧
        t.keyTaken = true ∧ t = { s with v := t.v, keyTaken := t.keyTaken }) ∧
    (s.inputs.keyEvent = none → exec (.ldVxK x) s = .next { s with pc := s.pc - 2 })

/-- spec/44_keys_timers.md R153, R154, R155: the three timer moves. -/
def Obligations.TimerMoves : Prop :=
  ∀ (x : Reg) (s : State),
    (∃ t, exec (.ldVxDt x) s = .next t ∧ (∀ k, t.getV k = if k = x then s.dt else s.getV k) ∧ t = { s with v := t.v }) ∧
    exec (.ldDtVx x) s = .next { s with dt := s.getV x } ∧
    exec (.ldStVx x) s = .next { s with st := s.getV x }

/-- spec/70_reset_and_hazards.md section 3 (R207), spec/40_flow.md R81, spec/44_keys_timers.md R152: a Step at a jump to itself, and
a Step at LD Vx,K without a key event, leave the core as it was. That `atSelfJump` is also the model's end of a run
(assumption 36) plays no part here. -/
def Obligations.HangsLeaveTheCoreUnchanged : Prop :=
  ∀ (s : State) (inp : StepInputs), s.status = .running → s.pc.toNat ≤ 0xFFE → s.nextEvent = .step inp →
    (s.atSelfJump = true ∨ (∃ x, decodeWord s.fetchWord = some (.ldVxK x)) ∧ inp.keyEvent = none) →
    ∃ t, step s = .next t ∧ sameCore s t

/-! ## Rules of the whole machine -/

/-- Every step answers a next state: no instruction, word or event is refused or stops the model (spec/30_encoding.md section 5,
spec/60_exceptions.md section 2; that a fatal condition is a next state is assumption 1). -/
def Obligations.EveryStepAnswersNext : Prop :=
  (∀ s : State, ∃ t, step s = .next t) ∧ ∀ (i : Instr) (s : State), ∃ t, exec i s = .next t

/-- spec/10_state.md section 11 (R32, and R11 for VF): each piece of state is written only by the instructions listed for it. -/
def Obligations.OnlyListedWriters : Prop :=
  ∀ (i : Instr) (s t : State), exec i s = .next t →
    (∀ k, mayWriteV i k = false → t.getV k = s.getV k) ∧ (writesI i = false → t.i = s.i) ∧
    (writesPc i = false → t.pc = s.pc) ∧ (writesMem i = false → t.mem = s.mem) ∧
    (writesFb i = false → t.fb = s.fb ∧ t.drawReq = s.drawReq) ∧ (writesStack i = false → t.stack = s.stack) ∧
    ((∀ x, i ≠ .ldDtVx x) → t.dt = s.dt) ∧ ((∀ x, i ≠ .ldStVx x) → t.st = s.st) ∧
    ((∀ x, i ≠ .ldVxK x) → t.keyTaken = s.keyTaken) ∧
    t.soundReq = s.soundReq ∧ t.cfg = s.cfg ∧ t.events = s.events ∧ t.draws = s.draws ∧ t.inputs = s.inputs ∧
    t.unknownOp = s.unknownOp

/-- spec/60_exceptions.md sections 1 and 2 (R173, R175), with the spec's decisions D3 and D30: only six instructions can halt the
core, and a halt in the execute phase changes only status, halt_cause and halt_info. -/
def Obligations.HaltsArePreciseAndListed : Prop :=
  ∀ (i : Instr) (s t : State), exec i s = .next t → s.status = .running →
    (canHalt i = false → t.status = .running) ∧
    (t.status = .halted →
      t = { s with status := .halted, haltCause := t.haltCause, haltInfo := t.haltInfo } ∧
      1 ≤ t.haltCause.toNat ∧ t.haltCause.toNat ≤ 4 ∧ t.haltInfo.faultPc = s.pc - 2 ∧
      t.haltInfo.faultWord = encodeWord i)

/-- spec/45_quirk_dispatch.md section R160: no event but a Step that runs one of the nine mode-dependent instructions depends on
MODE. -/
def Obligations.ModeMattersOnlyToQuirkInstructions : Prop :=
  ∀ (m : Mode) (s t : State),
    (∀ inp i, s.nextEvent = .step inp → decodeWord s.fetchWord = some i → consultsMode i = false) → step s = .next t → step (inMode m s) = .next (inMode m t)

/-- spec/10_state.md section 8 (R22, R23, R24): each input is read only by its own instructions. -/
def Obligations.InputsAreReadOnlyByTheirInstructions : Prop :=
  ∀ (i : Instr) (s t : State), exec i s = .next t →
    (∀ a, readsKeysHeld i = false →
      exec i { s with inputs := { s.inputs with keysHeld := a } } =
        .next { t with inputs := { t.inputs with keysHeld := a } }) ∧
    (∀ a, readsKeyEvent i = false →
      exec i { s with inputs := { s.inputs with keyEvent := a } } =
        .next { t with inputs := { t.inputs with keyEvent := a } }) ∧
    (∀ a, readsRnd i = false →
      exec i { s with inputs := { s.inputs with rnd := a } } =
        .next { t with inputs := { t.inputs with rnd := a } })

/-- spec/10_state.md R19, spec/45_quirk_dispatch.md R166: the configuration never changes during a run (that it is a field of State
is assumption 6). -/
def Obligations.ConfigurationNeverChanges : Prop :=
  ∀ (k : Nat) (s t : State), Host.Core.run Sys2Proof.core k s = .next t → t.cfg = s.cfg

/-! ## Reset and the invariant -/

/-- The state after reset satisfies the invariant of the machine. -/
def Obligations.ResetMeetsInv : Prop :=
  State.reset.Inv

/-- Every launch gives a state that satisfies the invariant (spec/70_reset_and_hazards.md section 1). -/
def Obligations.InitMeetsInv : Prop :=
  ∀ (c : Configuration) (font program : List Byte) (es : List Event) (s : State),
    State.init c font program es = some s → s.Inv

/-- Every step keeps the invariant: the canonical form of memory, the range of PC of spec/10_state.md R14, the stack's entries and
depth (R15), the cause codes of spec/60_exceptions.md R171. -/
def Obligations.StepKeepsInv : Prop :=
  ∀ s t : State, s.Inv → step s = .next t → t.Inv

/-- spec/70_reset_and_hazards.md section 1 (R200, R201), spec/10_state.md R30, spec/20_memory.md R56, with the spec's decisions D2,
D9, D17 and D22 (and assumption 8 for halt_cause and halt_info): what Init leaves, and that it refuses an image that does not
fit. -/
def Obligations.InitLaysOutTheMachine : Prop :=
  ∀ (c : Configuration) (font program : List Byte) (es : List Event), c.stackDepth ≠ some 0 → font.length = 80 →
    (3584 < program.length → State.init c font program es = none) ∧
    (program.length ≤ 3584 → ∃ s, State.init c font program es = some s ∧
      (∀ k (h : k < font.length), Memory.read s.mem k = font[k]) ∧
      (∀ k (h : k < program.length), Memory.read s.mem (0x200 + k) = program[k]) ∧
      (∀ a, 80 ≤ a → a < 0x200 ∨ 0x200 + program.length ≤ a → Memory.read s.mem a = 0) ∧
      s.pc = 0x200 ∧ (∀ k, s.getV k = 0) ∧ s.i = 0 ∧ s.stack = [] ∧ s.dt = 0 ∧ s.st = 0 ∧
      (∀ k, k < 2048 → s.fb.cell k = false) ∧ s.drawReq = false ∧ s.soundReq = false ∧ s.status = .running ∧
      s.cfg = c ∧ s.events = es)

/-- `State.reset` is the launch with MODE LEGACY, the default parameters and FONT, an empty image and an empty tape (assumptions
2, 5 and 9). -/
def Obligations.ResetIsTheDefaultLaunch : Prop :=
  State.init (Configuration.defaults .legacy) defaultFont [] [] = some State.reset
end

