-- ==== Sys2Proof/Laws/Decode.lean ====
section
/-! SUPPORT. The fields of a word built in each format (spec/30_encoding.md R61, R62), and its two bytes (spec/20_memory.md R42). -/

namespace Sys2Proof

theorem extractLsb'_append_high {v w : Nat} (hi : BitVec v) (lo : BitVec w) {st len : Nat} (h : w ≤ st) :
    (hi ++ lo).extractLsb' st len = hi.extractLsb' (st - w) len := by
  rw [BitVec.extractLsb'_append_eq_ite, dif_neg (by omega)]

theorem extractLsb'_append_low {v w : Nat} (hi : BitVec v) (lo : BitVec w) {st len : Nat} (h0 : st < w)
    (h : st + len ≤ w) : (hi ++ lo).extractLsb' st len = lo.extractLsb' st len := by
  rw [BitVec.extractLsb'_append_eq_ite, dif_pos h0, dif_pos h]

/-! ## Format NNN -/

@[simp] theorem op_wordNNN (op : Nibble) (nnn : Addr12) : (fieldsOf (wordNNN op nnn)).op = op :=
  (extractLsb'_append_high op nnn (by decide)).trans BitVec.extractLsb'_eq_self

@[simp] theorem nnn_wordNNN (op : Nibble) (nnn : Addr12) : (fieldsOf (wordNNN op nnn)).nnn = nnn :=
  (extractLsb'_append_low op nnn (by decide) (by decide)).trans BitVec.extractLsb'_eq_self

/-- The x field of a word of format NNN is the top nibble of its nnn (R62). -/
@[simp] theorem x_wordNNN (op : Nibble) (nnn : Addr12) : (fieldsOf (wordNNN op nnn)).x = xOfNnn nnn :=
  congrArg BitVec.toFin (extractLsb'_append_low op nnn (by decide) (by decide))

/-! ## Format XNN -/

@[simp] theorem op_wordXNN (op : Nibble) (x : Reg) (nn : Byte) : (fieldsOf (wordXNN op x nn)).op = op :=
  (extractLsb'_append_high _ nn (by decide)).trans <|
    (extractLsb'_append_high op (BitVec.ofFin x : Nibble) (by decide)).trans BitVec.extractLsb'_eq_self

@[simp] theorem x_wordXNN (op : Nibble) (x : Reg) (nn : Byte) : (fieldsOf (wordXNN op x nn)).x = x :=
  congrArg BitVec.toFin <| (extractLsb'_append_high _ nn (by decide)).trans <|
    (extractLsb'_append_low op (BitVec.ofFin x : Nibble) (by decide) (by decide)).trans BitVec.extractLsb'_eq_self

@[simp] theorem nn_wordXNN (op : Nibble) (x : Reg) (nn : Byte) : (fieldsOf (wordXNN op x nn)).nn = nn :=
  (extractLsb'_append_low _ nn (by decide) (by decide)).trans BitVec.extractLsb'_eq_self

/-! ## Formats XY and XYN -/

@[simp] theorem op_wordXYN (op : Nibble) (x y : Reg) (n : Nibble) : (fieldsOf (wordXYN op x y n)).op = op :=
  (extractLsb'_append_high _ n (by decide)).trans <| (extractLsb'_append_high _ _ (by decide)).trans <|
    (extractLsb'_append_high op (BitVec.ofFin x : Nibble) (by decide)).trans BitVec.extractLsb'_eq_self

@[simp] theorem x_wordXYN (op : Nibble) (x y : Reg) (n : Nibble) : (fieldsOf (wordXYN op x y n)).x = x :=
  congrArg BitVec.toFin <| (extractLsb'_append_high _ n (by decide)).trans <|
    (extractLsb'_append_high _ _ (by decide)).trans <|
    (extractLsb'_append_low op (BitVec.ofFin x : Nibble) (by decide) (by decide)).trans BitVec.extractLsb'_eq_self

@[simp] theorem y_wordXYN (op : Nibble) (x y : Reg) (n : Nibble) : (fieldsOf (wordXYN op x y n)).y = y :=
  congrArg BitVec.toFin <| (extractLsb'_append_high _ n (by decide)).trans <|
    (extractLsb'_append_low _ (BitVec.ofFin y : Nibble) (by decide) (by decide)).trans BitVec.extractLsb'_eq_self

@[simp] theorem n_wordXYN (op : Nibble) (x y : Reg) (n : Nibble) : (fieldsOf (wordXYN op x y n)).n = n :=
  (extractLsb'_append_low _ n (by decide) (by decide)).trans BitVec.extractLsb'_eq_self

/-! ## The rows of R65 -/

theorem wordNNN_and (op : Nibble) (nnn : Addr12) : wordNNN op nnn &&& 0xF000#16 = wordNNN op 0 := by
  show (op ++ nnn : BitVec (4 + 12)) &&& (0xF#4 ++ 0#12) = op ++ 0#12
  rw [BitVec.and_append, BitVec.and_zero]
  exact congrArg (· ++ 0#12) BitVec.and_allOnes

theorem wordXNN_and_op (op : Nibble) (x : Reg) (nn : Byte) : wordXNN op x nn &&& 0xF000#16 = wordXNN op 0 0 := by
  show (op ++ BitVec.ofFin (w := 4) x ++ nn : BitVec (4 + 4 + 8)) &&& (0xF#4 ++ 0#4 ++ 0#8) = op ++ 0#4 ++ 0#8
  rw [BitVec.and_append, BitVec.and_append, BitVec.and_zero, BitVec.and_zero]
  exact congrArg (· ++ 0#4 ++ 0#8) BitVec.and_allOnes

theorem wordXNN_and_nn (op : Nibble) (x : Reg) (nn : Byte) : wordXNN op x nn &&& 0xF0FF#16 = wordXNN op 0 nn := by
  show (op ++ BitVec.ofFin (w := 4) x ++ nn : BitVec (4 + 4 + 8)) &&& (0xF#4 ++ 0#4 ++ 0xFF#8) = op ++ 0#4 ++ nn
  rw [BitVec.and_append, BitVec.and_append, BitVec.and_zero]
  exact congr (congrArg (fun (a : Nibble) (b : Byte) => a ++ 0#4 ++ b) BitVec.and_allOnes) BitVec.and_allOnes

theorem wordXYN_and_op (op : Nibble) (x y : Reg) (n : Nibble) : wordXYN op x y n &&& 0xF000#16 = wordXYN op 0 0 0 := by
  show (op ++ BitVec.ofFin (w := 4) x ++ BitVec.ofFin (w := 4) y ++ n : BitVec (4 + 4 + 4 + 4)) &&&
    (0xF#4 ++ 0#4 ++ 0#4 ++ 0#4) = op ++ 0#4 ++ 0#4 ++ 0#4
  rw [BitVec.and_append, BitVec.and_append, BitVec.and_append, BitVec.and_zero, BitVec.and_zero, BitVec.and_zero]
  exact congrArg (· ++ 0#4 ++ 0#4 ++ 0#4) BitVec.and_allOnes

theorem wordXYN_and_n (op : Nibble) (x y : Reg) (n : Nibble) : wordXYN op x y n &&& 0xF00F#16 = wordXYN op 0 0 n := by
  show (op ++ BitVec.ofFin (w := 4) x ++ BitVec.ofFin (w := 4) y ++ n : BitVec (4 + 4 + 4 + 4)) &&&
    (0xF#4 ++ 0#4 ++ 0#4 ++ 0xF#4) = op ++ 0#4 ++ 0#4 ++ n
  rw [BitVec.and_append, BitVec.and_append, BitVec.and_append, BitVec.and_zero, BitVec.and_zero]
  exact congr (congrArg (fun (a b : Nibble) => a ++ 0#4 ++ 0#4 ++ b) BitVec.and_allOnes) BitVec.and_allOnes

/-! ## The two bytes of a word -/

/-- The high byte at the lower address and the low byte after it are the word (R42). -/
@[simp] theorem wordOfBytes_highByte_lowByte (w : Word) : wordOfBytes (highByte w) (lowByte w) = w := by
  show (w.extractLsb' 8 8 ++ w.extractLsb' 0 8 : BitVec (8 + 8)) = w
  rw [BitVec.extractLsb'_append_extractLsb'_eq_extractLsb' (by rfl)]
  exact BitVec.extractLsb'_eq_self

@[simp] theorem highByte_wordOfBytes (hi lo : Byte) : highByte (wordOfBytes hi lo) = hi :=
  (extractLsb'_append_high hi lo (by decide)).trans BitVec.extractLsb'_eq_self

@[simp] theorem lowByte_wordOfBytes (hi lo : Byte) : lowByte (wordOfBytes hi lo) = lo :=
  (extractLsb'_append_low hi lo (by decide) (by decide)).trans BitVec.extractLsb'_eq_self

end Sys2Proof
end

