-- ==== Sys2Proof/Laws/Display.lean ====
section
/-! SUPPORT. The laws of the framebuffer: one cell after one write, and what one pixel of a sprite does. -/

namespace Sys2Proof.Machine

/-- Every cell of a cleared framebuffer is off (R140). -/
@[simp] theorem Framebuffer.cell_clear (k : Nat) : Framebuffer.clear.cell k = false := by
  unfold Framebuffer.cell Framebuffer.clear
  by_cases h : k / 64 < 32
  · simp [Vector.getD, h]
  · simp [Vector.getD, h]

/-- Toggling cell `j` flips it and leaves every other cell alone (R17). -/
theorem Framebuffer.cell_toggle (fb : Framebuffer) {j : Nat} (hj : j < 2048) (k : Nat) :
    (fb.toggle j).cell k = if j = k then !fb.cell k else fb.cell k := by
  have hjr : j / 64 < 32 := by omega
  unfold Framebuffer.cell Framebuffer.toggle
  by_cases hk : k / 64 < 32
  · by_cases hr : j / 64 = k / 64
    · by_cases hc : j % 64 = k % 64
      · have : j = k := by omega
        subst this
        simp [Vector.getD, hjr, Nat.mod_lt]
      · have : j ≠ k := fun h => hc (by rw [h])
        simp [Vector.getD, hk, hr, this, hc, BitVec.getLsbD_twoPow]
    · have : j ≠ k := fun h => hr (by rw [h])
      simp [Vector.getD, hjr, hk, hr, this]
  · have : j ≠ k := by omega
    simp [Vector.getD, hk, this]

/-- A cell number names a cell of the framebuffer, whatever the mode (R141, R163). -/
theorem drawCell_lt {wrap : Bool} {px py j : Nat} (h : drawCell wrap px py = some j) : j < 2048 := by
  unfold drawCell at h
  cases wrap
  · simp only [Bool.false_eq_true, if_false] at h
    split at h
    · cases h
    · simp only [Option.some.injEq] at h; omega
  · simp only [if_true, Option.some.injEq] at h
    omega

/-- What one pixel does to a cell (R141). -/
theorem cell_drawPixel {cell : Option Nat} (hc : ∀ j, cell = some j → j < 2048) (bit : Bool) (k : Canvas) (c : Nat) :
    (drawPixel cell bit k).fb.cell c = (k.fb.cell c ^^ (bit && decide (cell = some c))) := by
  cases cell with
  | none => simp [drawPixel]
  | some j =>
    cases bit with
    | false => simp [drawPixel]
    | true =>
      simp only [drawPixel, if_true, Framebuffer.cell_toggle _ (hc j rfl)]
      by_cases h : j = c <;> simp [h]

end Sys2Proof.Machine
end

