-- ==== Sys2Proof/Laws/Memory.lean ====
section
/-! SUPPORT. The laws of main memory: read after write, and that every memory operation keeps the canonical form. -/

namespace Sys2Proof.Machine

/-! ## Reading what was written -/

@[simp] theorem Memory.read_nil (a : Nat) : Memory.read [] a = Memory.unlisted a := rfl

theorem Memory.read_cons_entry (c : Nat) (b : Byte) (m : Memory) (a : Nat) :
    Memory.read ((c, b) :: m) a = if c = a then b else Memory.read m a := rfl

/-- Below the first listed address every address reads as unlisted. -/
theorem Memory.read_of_lt {lo : Nat} {m : Memory} (h : Memory.wfFrom lo m = true) {a : Nat} (ha : a < lo) :
    Memory.read m a = Memory.unlisted a := by
  induction m generalizing lo with
  | nil => rfl
  | cons e m ih =>
    obtain ⟨c, b⟩ := e
    simp only [Memory.wfFrom, Bool.and_eq_true, decide_eq_true_eq] at h
    have hc : c ≠ a := by omega
    simp only [Memory.read_cons_entry, hc, if_false]
    exact ih h.2 (by omega)

/-- An entry in front of a memory that does not list its address. -/
theorem Memory.read_cons (a a' : Nat) (b : Byte) (m : Memory) (h : Memory.read m a = Memory.unlisted a) :
    Memory.read (Memory.cons a b m) a' = if a = a' then b else Memory.read m a' := by
  unfold Memory.cons
  by_cases hb : b = Memory.unlisted a
  · by_cases ha : a = a'
    · subst ha; simp [hb, h]
    · simp [hb, ha]
  · simp [hb, Memory.read_cons_entry]

/-- A write leaves every other address alone, in any memory. -/
theorem Memory.read_write_other (m : Memory) {a a' : Nat} (b : Byte) (h : a ≠ a') :
    Memory.read (Memory.write m a b) a' = Memory.read m a' := by
  induction m with
  | nil =>
    simp only [Memory.write, Memory.cons]
    split <;> simp [Memory.read_cons_entry, h]
  | cons e m ih =>
    obtain ⟨c, d⟩ := e
    simp only [Memory.write, Memory.cons]
    split
    · split <;> simp [Memory.read_cons_entry, h]
    · split
      · next hac =>
        subst hac
        split <;> simp [Memory.read_cons_entry, h]
      · simp [Memory.read_cons_entry, ih]

/-- A read after a write to the same address gives the byte written. -/
theorem Memory.read_write_same_from {lo : Nat} {m : Memory} (hm : Memory.wfFrom lo m = true) (a : Nat) (b : Byte) :
    Memory.read (Memory.write m a b) a = b := by
  induction m generalizing lo with
  | nil => simp [Memory.write, Memory.read_cons a a b [] rfl]
  | cons e m ih =>
    obtain ⟨c, d⟩ := e
    have hm' := hm
    simp only [Memory.wfFrom, Bool.and_eq_true, decide_eq_true_eq] at hm'
    simp only [Memory.write]
    split
    · next hac =>
      rw [Memory.read_cons]
      · simp
      · have hc : c ≠ a := by omega
        simp only [Memory.read_cons_entry, hc, if_false]
        exact Memory.read_of_lt hm'.2 (by omega)
    · split
      · next hac =>
        rw [Memory.read_cons]
        · simp
        · exact Memory.read_of_lt hm'.2 (by omega)
      · next h1 h2 =>
        have hc : c ≠ a := fun h => h2 h.symm
        simp only [Memory.read_cons_entry, hc, if_false]
        exact ih hm'.2

theorem Memory.read_write_same {m : Memory} (hm : m.wf = true) (a : Nat) (b : Byte) :
    Memory.read (Memory.write m a b) a = b :=
  Memory.read_write_same_from hm a b

/-! ## The canonical form -/

theorem Memory.wfFrom_mono {lo lo' : Nat} {m : Memory} (h : Memory.wfFrom lo' m = true) (hl : lo ≤ lo') :
    Memory.wfFrom lo m = true := by
  cases m with
  | nil => rfl
  | cons e m =>
    obtain ⟨c, b⟩ := e
    simp only [Memory.wfFrom, Bool.and_eq_true, decide_eq_true_eq] at h ⊢
    exact ⟨⟨⟨by omega, h.1.1.2⟩, h.1.2⟩, h.2⟩

theorem Memory.wfFrom_cons {lo a : Nat} {m : Memory} (b : Byte) (ha : a < memSize) (hl : lo ≤ a)
    (h : Memory.wfFrom (a + 1) m = true) : Memory.wfFrom lo (Memory.cons a b m) = true := by
  unfold Memory.cons
  split
  · exact Memory.wfFrom_mono h (by omega)
  · next hb => simp [Memory.wfFrom, hl, ha, hb, h]

theorem Memory.wfFrom_write {lo a : Nat} {m : Memory} (b : Byte) (ha : a < memSize) (hl : lo ≤ a)
    (h : Memory.wfFrom lo m = true) : Memory.wfFrom lo (Memory.write m a b) = true := by
  induction m generalizing lo with
  | nil => exact Memory.wfFrom_cons b ha hl rfl
  | cons e m ih =>
    obtain ⟨c, d⟩ := e
    have h' := h
    simp only [Memory.wfFrom, Bool.and_eq_true, decide_eq_true_eq] at h'
    simp only [Memory.write]
    split
    · next hac =>
      refine Memory.wfFrom_cons b ha hl ?_
      simp only [Memory.wfFrom, Bool.and_eq_true, decide_eq_true_eq]
      exact ⟨⟨⟨by omega, h'.1.1.2⟩, h'.1.2⟩, h'.2⟩
    · split
      · next hac => exact Memory.wfFrom_cons b ha hl (Memory.wfFrom_mono h'.2 (by omega))
      · simp only [Memory.wfFrom, Bool.and_eq_true, decide_eq_true_eq]
        exact ⟨⟨⟨h'.1.1.1, h'.1.1.2⟩, h'.1.2⟩, ih (by omega) h'.2⟩

/-- A store inside the memory keeps the canonical form. -/
theorem Memory.wf_write {m : Memory} (hm : m.wf = true) {a : Nat} (b : Byte) (ha : a < memSize) :
    (Memory.write m a b).wf = true :=
  Memory.wfFrom_write b ha (Nat.zero_le a) hm

/-- The stores of a block inside the memory keep the canonical form. -/
theorem Memory.wf_writeBlock {m : Memory} (hm : m.wf = true) {a : Nat} (bs : List Byte)
    (ha : a + bs.length ≤ memSize) : (Memory.writeBlock m a bs).wf = true := by
  induction bs generalizing m a with
  | nil => exact hm
  | cons b bs ih =>
    simp only [List.length_cons] at ha
    exact ih (Memory.wf_write hm b (by omega)) (by omega)

/-! ## Blocks -/

@[simp] theorem Memory.length_readBlock (m : Memory) (a n : Nat) : (Memory.readBlock m a n).length = n := by
  induction n generalizing a with
  | zero => rfl
  | succ n ih => simp [Memory.readBlock, ih]

/-- Byte `k` of a block is the byte at `a + k`. -/
theorem Memory.getElem_readBlock (m : Memory) (a n k : Nat) (hk : k < (Memory.readBlock m a n).length) :
    (Memory.readBlock m a n)[k] = Memory.read m (a + k) := by
  induction n generalizing a k with
  | zero => simp [Memory.readBlock] at hk
  | succ n ih =>
    cases k with
    | zero => rfl
    | succ k =>
      simp only [Memory.readBlock, List.getElem_cons_succ]
      rw [ih, Nat.add_assoc, Nat.add_comm 1 k]

/-- A block of stores leaves every address outside it alone, in any memory. -/
theorem Memory.read_writeBlock_outside (m : Memory) (a : Nat) (bs : List Byte) {a' : Nat}
    (h : a' < a ∨ a + bs.length ≤ a') : Memory.read (Memory.writeBlock m a bs) a' = Memory.read m a' := by
  induction bs generalizing m a with
  | nil => rfl
  | cons b bs ih =>
    simp only [List.length_cons] at h
    simp only [Memory.writeBlock]
    rw [ih _ _ (by omega), Memory.read_write_other _ _ (by omega)]

/-- Byte `k` of a block of stores is at `a + k` afterwards. -/
theorem Memory.read_writeBlock_inside {m : Memory} (hm : m.wf = true) {a : Nat} (bs : List Byte)
    (ha : a + bs.length ≤ memSize) {k : Nat} (hk : k < bs.length) :
    Memory.read (Memory.writeBlock m a bs) (a + k) = bs[k] := by
  induction bs generalizing m a k with
  | nil => simp at hk
  | cons b bs ih =>
    simp only [List.length_cons] at ha hk
    simp only [Memory.writeBlock]
    cases k with
    | zero =>
      rw [Memory.read_writeBlock_outside _ _ _ (by omega)]
      simpa using Memory.read_write_same hm a b
    | succ k =>
      have := ih (Memory.wf_write hm b (by omega : a < memSize)) (a := a + 1) (by omega) (k := k) (by omega)
      rw [Nat.add_assoc, Nat.add_comm 1 k] at this
      simpa using this

/-! ## Bounds -/

theorem inBounds_iff (base len : Nat) : inBounds base len = true ↔ len = 0 ∨ base + len ≤ memSize := by
  simp [inBounds]

/-- The default FONT has the 80 bytes of R31. -/
theorem defaultFont_wellFormed : fontWellFormed defaultFont = true := by decide

end Sys2Proof.Machine
end

