-- ==== Sys2Proof/Laws/State.lean ====
section
/-! SUPPORT. What each named update of the state leaves in each field: one small lemma per field, so that no later proof unfolds a record update. -/

namespace Sys2Proof.Machine

variable (s : State)

/-! `V[x] <- b` writes `v` alone (R10). -/

@[simp] theorem State.setV_v (x : Reg) (b : Byte) : (s.setV x b).v = s.v.set x.val b x.isLt := rfl
@[simp] theorem State.setV_i (x : Reg) (b : Byte) : (s.setV x b).i = s.i := rfl
@[simp] theorem State.setV_pc (x : Reg) (b : Byte) : (s.setV x b).pc = s.pc := rfl
@[simp] theorem State.setV_stack (x : Reg) (b : Byte) : (s.setV x b).stack = s.stack := rfl
@[simp] theorem State.setV_mem (x : Reg) (b : Byte) : (s.setV x b).mem = s.mem := rfl
@[simp] theorem State.setV_fb (x : Reg) (b : Byte) : (s.setV x b).fb = s.fb := rfl
@[simp] theorem State.setV_dt (x : Reg) (b : Byte) : (s.setV x b).dt = s.dt := rfl
@[simp] theorem State.setV_st (x : Reg) (b : Byte) : (s.setV x b).st = s.st := rfl
@[simp] theorem State.setV_drawReq (x : Reg) (b : Byte) : (s.setV x b).drawReq = s.drawReq := rfl
@[simp] theorem State.setV_soundReq (x : Reg) (b : Byte) : (s.setV x b).soundReq = s.soundReq := rfl
@[simp] theorem State.setV_status (x : Reg) (b : Byte) : (s.setV x b).status = s.status := rfl
@[simp] theorem State.setV_haltCause (x : Reg) (b : Byte) : (s.setV x b).haltCause = s.haltCause := rfl
@[simp] theorem State.setV_haltInfo (x : Reg) (b : Byte) : (s.setV x b).haltInfo = s.haltInfo := rfl
@[simp] theorem State.setV_cfg (x : Reg) (b : Byte) : (s.setV x b).cfg = s.cfg := rfl
@[simp] theorem State.setV_events (x : Reg) (b : Byte) : (s.setV x b).events = s.events := rfl
@[simp] theorem State.setV_draws (x : Reg) (b : Byte) : (s.setV x b).draws = s.draws := rfl
@[simp] theorem State.setV_inputs (x : Reg) (b : Byte) : (s.setV x b).inputs = s.inputs := rfl
@[simp] theorem State.setV_unknownOp (x : Reg) (b : Byte) : (s.setV x b).unknownOp = s.unknownOp := rfl
@[simp] theorem State.setV_keyTaken (x : Reg) (b : Byte) : (s.setV x b).keyTaken = s.keyTaken := rfl

/-! The fetch's advance and the skip write `pc` alone (R13). -/

@[simp] theorem State.advance_v : (s.advance).v = s.v := rfl
@[simp] theorem State.advance_i : (s.advance).i = s.i := rfl
@[simp] theorem State.advance_pc : (s.advance).pc = s.pc + 2 := rfl
@[simp] theorem State.advance_stack : (s.advance).stack = s.stack := rfl
@[simp] theorem State.advance_mem : (s.advance).mem = s.mem := rfl
@[simp] theorem State.advance_fb : (s.advance).fb = s.fb := rfl
@[simp] theorem State.advance_dt : (s.advance).dt = s.dt := rfl
@[simp] theorem State.advance_st : (s.advance).st = s.st := rfl
@[simp] theorem State.advance_drawReq : (s.advance).drawReq = s.drawReq := rfl
@[simp] theorem State.advance_soundReq : (s.advance).soundReq = s.soundReq := rfl
@[simp] theorem State.advance_status : (s.advance).status = s.status := rfl
@[simp] theorem State.advance_haltCause : (s.advance).haltCause = s.haltCause := rfl
@[simp] theorem State.advance_haltInfo : (s.advance).haltInfo = s.haltInfo := rfl
@[simp] theorem State.advance_cfg : (s.advance).cfg = s.cfg := rfl
@[simp] theorem State.advance_events : (s.advance).events = s.events := rfl
@[simp] theorem State.advance_draws : (s.advance).draws = s.draws := rfl
@[simp] theorem State.advance_inputs : (s.advance).inputs = s.inputs := rfl
@[simp] theorem State.advance_unknownOp : (s.advance).unknownOp = s.unknownOp := rfl
@[simp] theorem State.advance_keyTaken : (s.advance).keyTaken = s.keyTaken := rfl

/-! A skip writes `pc` alone (R83 to R86, R150, R151). -/

@[simp] theorem State.skipIf_v (c : Bool) : (s.skipIf c).v = s.v := by cases c <;> rfl
@[simp] theorem State.skipIf_i (c : Bool) : (s.skipIf c).i = s.i := by cases c <;> rfl
@[simp] theorem State.skipIf_pc (c : Bool) : (s.skipIf c).pc = if c then s.pc + 2 else s.pc := by cases c <;> rfl
@[simp] theorem State.skipIf_stack (c : Bool) : (s.skipIf c).stack = s.stack := by cases c <;> rfl
@[simp] theorem State.skipIf_mem (c : Bool) : (s.skipIf c).mem = s.mem := by cases c <;> rfl
@[simp] theorem State.skipIf_fb (c : Bool) : (s.skipIf c).fb = s.fb := by cases c <;> rfl
@[simp] theorem State.skipIf_dt (c : Bool) : (s.skipIf c).dt = s.dt := by cases c <;> rfl
@[simp] theorem State.skipIf_st (c : Bool) : (s.skipIf c).st = s.st := by cases c <;> rfl
@[simp] theorem State.skipIf_drawReq (c : Bool) : (s.skipIf c).drawReq = s.drawReq := by cases c <;> rfl
@[simp] theorem State.skipIf_soundReq (c : Bool) : (s.skipIf c).soundReq = s.soundReq := by cases c <;> rfl
@[simp] theorem State.skipIf_status (c : Bool) : (s.skipIf c).status = s.status := by cases c <;> rfl
@[simp] theorem State.skipIf_haltCause (c : Bool) : (s.skipIf c).haltCause = s.haltCause := by cases c <;> rfl
@[simp] theorem State.skipIf_haltInfo (c : Bool) : (s.skipIf c).haltInfo = s.haltInfo := by cases c <;> rfl
@[simp] theorem State.skipIf_cfg (c : Bool) : (s.skipIf c).cfg = s.cfg := by cases c <;> rfl
@[simp] theorem State.skipIf_events (c : Bool) : (s.skipIf c).events = s.events := by cases c <;> rfl
@[simp] theorem State.skipIf_draws (c : Bool) : (s.skipIf c).draws = s.draws := by cases c <;> rfl
@[simp] theorem State.skipIf_inputs (c : Bool) : (s.skipIf c).inputs = s.inputs := by cases c <;> rfl
@[simp] theorem State.skipIf_unknownOp (c : Bool) : (s.skipIf c).unknownOp = s.unknownOp := by cases c <;> rfl
@[simp] theorem State.skipIf_keyTaken (c : Bool) : (s.skipIf c).keyTaken = s.keyTaken := by cases c <;> rfl

/-! `raise` writes `status`, `haltCause` and `haltInfo` alone (R174). -/

@[simp] theorem State.halt_v (c : HaltCause) (h : HaltInfo) : (s.halt c h).v = s.v := rfl
@[simp] theorem State.halt_i (c : HaltCause) (h : HaltInfo) : (s.halt c h).i = s.i := rfl
@[simp] theorem State.halt_pc (c : HaltCause) (h : HaltInfo) : (s.halt c h).pc = s.pc := rfl
@[simp] theorem State.halt_stack (c : HaltCause) (h : HaltInfo) : (s.halt c h).stack = s.stack := rfl
@[simp] theorem State.halt_mem (c : HaltCause) (h : HaltInfo) : (s.halt c h).mem = s.mem := rfl
@[simp] theorem State.halt_fb (c : HaltCause) (h : HaltInfo) : (s.halt c h).fb = s.fb := rfl
@[simp] theorem State.halt_dt (c : HaltCause) (h : HaltInfo) : (s.halt c h).dt = s.dt := rfl
@[simp] theorem State.halt_st (c : HaltCause) (h : HaltInfo) : (s.halt c h).st = s.st := rfl
@[simp] theorem State.halt_drawReq (c : HaltCause) (h : HaltInfo) : (s.halt c h).drawReq = s.drawReq := rfl
@[simp] theorem State.halt_soundReq (c : HaltCause) (h : HaltInfo) : (s.halt c h).soundReq = s.soundReq := rfl
@[simp] theorem State.halt_status (c : HaltCause) (h : HaltInfo) : (s.halt c h).status = .halted := rfl
@[simp] theorem State.halt_haltCause (c : HaltCause) (h : HaltInfo) : (s.halt c h).haltCause = c.code := rfl
@[simp] theorem State.halt_haltInfo (c : HaltCause) (h : HaltInfo) : (s.halt c h).haltInfo = h := rfl
@[simp] theorem State.halt_cfg (c : HaltCause) (h : HaltInfo) : (s.halt c h).cfg = s.cfg := rfl
@[simp] theorem State.halt_events (c : HaltCause) (h : HaltInfo) : (s.halt c h).events = s.events := rfl
@[simp] theorem State.halt_draws (c : HaltCause) (h : HaltInfo) : (s.halt c h).draws = s.draws := rfl
@[simp] theorem State.halt_inputs (c : HaltCause) (h : HaltInfo) : (s.halt c h).inputs = s.inputs := rfl
@[simp] theorem State.halt_unknownOp (c : HaltCause) (h : HaltInfo) : (s.halt c h).unknownOp = s.unknownOp := rfl
@[simp] theorem State.halt_keyTaken (c : HaltCause) (h : HaltInfo) : (s.halt c h).keyTaken = s.keyTaken := rfl

/-! `push` writes `stack` alone (R15). -/

@[simp] theorem State.push_v (a : Word) : (s.push a).v = s.v := rfl
@[simp] theorem State.push_i (a : Word) : (s.push a).i = s.i := rfl
@[simp] theorem State.push_pc (a : Word) : (s.push a).pc = s.pc := rfl
@[simp] theorem State.push_stack (a : Word) : (s.push a).stack = s.stack ++ [a] := rfl
@[simp] theorem State.push_mem (a : Word) : (s.push a).mem = s.mem := rfl
@[simp] theorem State.push_fb (a : Word) : (s.push a).fb = s.fb := rfl
@[simp] theorem State.push_dt (a : Word) : (s.push a).dt = s.dt := rfl
@[simp] theorem State.push_st (a : Word) : (s.push a).st = s.st := rfl
@[simp] theorem State.push_drawReq (a : Word) : (s.push a).drawReq = s.drawReq := rfl
@[simp] theorem State.push_soundReq (a : Word) : (s.push a).soundReq = s.soundReq := rfl
@[simp] theorem State.push_status (a : Word) : (s.push a).status = s.status := rfl
@[simp] theorem State.push_haltCause (a : Word) : (s.push a).haltCause = s.haltCause := rfl
@[simp] theorem State.push_haltInfo (a : Word) : (s.push a).haltInfo = s.haltInfo := rfl
@[simp] theorem State.push_cfg (a : Word) : (s.push a).cfg = s.cfg := rfl
@[simp] theorem State.push_events (a : Word) : (s.push a).events = s.events := rfl
@[simp] theorem State.push_draws (a : Word) : (s.push a).draws = s.draws := rfl
@[simp] theorem State.push_inputs (a : Word) : (s.push a).inputs = s.inputs := rfl
@[simp] theorem State.push_unknownOp (a : Word) : (s.push a).unknownOp = s.unknownOp := rfl
@[simp] theorem State.push_keyTaken (a : Word) : (s.push a).keyTaken = s.keyTaken := rfl

/-! A store writes `mem` alone (R46). -/

@[simp] theorem State.storeAtI_v (bs : List Byte) : (s.storeAtI bs).v = s.v := rfl
@[simp] theorem State.storeAtI_i (bs : List Byte) : (s.storeAtI bs).i = s.i := rfl
@[simp] theorem State.storeAtI_pc (bs : List Byte) : (s.storeAtI bs).pc = s.pc := rfl
@[simp] theorem State.storeAtI_stack (bs : List Byte) : (s.storeAtI bs).stack = s.stack := rfl
@[simp] theorem State.storeAtI_mem (bs : List Byte) : (s.storeAtI bs).mem = Memory.writeBlock s.mem s.i.toNat bs := rfl
@[simp] theorem State.storeAtI_fb (bs : List Byte) : (s.storeAtI bs).fb = s.fb := rfl
@[simp] theorem State.storeAtI_dt (bs : List Byte) : (s.storeAtI bs).dt = s.dt := rfl
@[simp] theorem State.storeAtI_st (bs : List Byte) : (s.storeAtI bs).st = s.st := rfl
@[simp] theorem State.storeAtI_drawReq (bs : List Byte) : (s.storeAtI bs).drawReq = s.drawReq := rfl
@[simp] theorem State.storeAtI_soundReq (bs : List Byte) : (s.storeAtI bs).soundReq = s.soundReq := rfl
@[simp] theorem State.storeAtI_status (bs : List Byte) : (s.storeAtI bs).status = s.status := rfl
@[simp] theorem State.storeAtI_haltCause (bs : List Byte) : (s.storeAtI bs).haltCause = s.haltCause := rfl
@[simp] theorem State.storeAtI_haltInfo (bs : List Byte) : (s.storeAtI bs).haltInfo = s.haltInfo := rfl
@[simp] theorem State.storeAtI_cfg (bs : List Byte) : (s.storeAtI bs).cfg = s.cfg := rfl
@[simp] theorem State.storeAtI_events (bs : List Byte) : (s.storeAtI bs).events = s.events := rfl
@[simp] theorem State.storeAtI_draws (bs : List Byte) : (s.storeAtI bs).draws = s.draws := rfl
@[simp] theorem State.storeAtI_inputs (bs : List Byte) : (s.storeAtI bs).inputs = s.inputs := rfl
@[simp] theorem State.storeAtI_unknownOp (bs : List Byte) : (s.storeAtI bs).unknownOp = s.unknownOp := rfl
@[simp] theorem State.storeAtI_keyTaken (bs : List Byte) : (s.storeAtI bs).keyTaken = s.keyTaken := rfl

/-! The post-modification of Fx55 and Fx65 writes `i` alone (R164). -/

@[simp] theorem State.advanceI_v (x : Reg) : (s.advanceI x).v = s.v := rfl
@[simp] theorem State.advanceI_i (x : Reg) : (s.advanceI x).i = s.i + iAdvance (qMemIInc s.cfg) x := rfl
@[simp] theorem State.advanceI_pc (x : Reg) : (s.advanceI x).pc = s.pc := rfl
@[simp] theorem State.advanceI_stack (x : Reg) : (s.advanceI x).stack = s.stack := rfl
@[simp] theorem State.advanceI_mem (x : Reg) : (s.advanceI x).mem = s.mem := rfl
@[simp] theorem State.advanceI_fb (x : Reg) : (s.advanceI x).fb = s.fb := rfl
@[simp] theorem State.advanceI_dt (x : Reg) : (s.advanceI x).dt = s.dt := rfl
@[simp] theorem State.advanceI_st (x : Reg) : (s.advanceI x).st = s.st := rfl
@[simp] theorem State.advanceI_drawReq (x : Reg) : (s.advanceI x).drawReq = s.drawReq := rfl
@[simp] theorem State.advanceI_soundReq (x : Reg) : (s.advanceI x).soundReq = s.soundReq := rfl
@[simp] theorem State.advanceI_status (x : Reg) : (s.advanceI x).status = s.status := rfl
@[simp] theorem State.advanceI_haltCause (x : Reg) : (s.advanceI x).haltCause = s.haltCause := rfl
@[simp] theorem State.advanceI_haltInfo (x : Reg) : (s.advanceI x).haltInfo = s.haltInfo := rfl
@[simp] theorem State.advanceI_cfg (x : Reg) : (s.advanceI x).cfg = s.cfg := rfl
@[simp] theorem State.advanceI_events (x : Reg) : (s.advanceI x).events = s.events := rfl
@[simp] theorem State.advanceI_draws (x : Reg) : (s.advanceI x).draws = s.draws := rfl
@[simp] theorem State.advanceI_inputs (x : Reg) : (s.advanceI x).inputs = s.inputs := rfl
@[simp] theorem State.advanceI_unknownOp (x : Reg) : (s.advanceI x).unknownOp = s.unknownOp := rfl
@[simp] theorem State.advanceI_keyTaken (x : Reg) : (s.advanceI x).keyTaken = s.keyTaken := rfl

/-! Result and flag write `v` alone (R112). -/

@[simp] theorem State.setWithFlag_v (x : Reg) (r f : Byte) : (s.setWithFlag x r f).v = (s.v.set x.val r x.isLt).set 15 f := rfl
@[simp] theorem State.setWithFlag_i (x : Reg) (r f : Byte) : (s.setWithFlag x r f).i = s.i := rfl
@[simp] theorem State.setWithFlag_pc (x : Reg) (r f : Byte) : (s.setWithFlag x r f).pc = s.pc := rfl
@[simp] theorem State.setWithFlag_stack (x : Reg) (r f : Byte) : (s.setWithFlag x r f).stack = s.stack := rfl
@[simp] theorem State.setWithFlag_mem (x : Reg) (r f : Byte) : (s.setWithFlag x r f).mem = s.mem := rfl
@[simp] theorem State.setWithFlag_fb (x : Reg) (r f : Byte) : (s.setWithFlag x r f).fb = s.fb := rfl
@[simp] theorem State.setWithFlag_dt (x : Reg) (r f : Byte) : (s.setWithFlag x r f).dt = s.dt := rfl
@[simp] theorem State.setWithFlag_st (x : Reg) (r f : Byte) : (s.setWithFlag x r f).st = s.st := rfl
@[simp] theorem State.setWithFlag_drawReq (x : Reg) (r f : Byte) : (s.setWithFlag x r f).drawReq = s.drawReq := rfl
@[simp] theorem State.setWithFlag_soundReq (x : Reg) (r f : Byte) : (s.setWithFlag x r f).soundReq = s.soundReq := rfl
@[simp] theorem State.setWithFlag_status (x : Reg) (r f : Byte) : (s.setWithFlag x r f).status = s.status := rfl
@[simp] theorem State.setWithFlag_haltCause (x : Reg) (r f : Byte) : (s.setWithFlag x r f).haltCause = s.haltCause := rfl
@[simp] theorem State.setWithFlag_haltInfo (x : Reg) (r f : Byte) : (s.setWithFlag x r f).haltInfo = s.haltInfo := rfl
@[simp] theorem State.setWithFlag_cfg (x : Reg) (r f : Byte) : (s.setWithFlag x r f).cfg = s.cfg := rfl
@[simp] theorem State.setWithFlag_events (x : Reg) (r f : Byte) : (s.setWithFlag x r f).events = s.events := rfl
@[simp] theorem State.setWithFlag_draws (x : Reg) (r f : Byte) : (s.setWithFlag x r f).draws = s.draws := rfl
@[simp] theorem State.setWithFlag_inputs (x : Reg) (r f : Byte) : (s.setWithFlag x r f).inputs = s.inputs := rfl
@[simp] theorem State.setWithFlag_unknownOp (x : Reg) (r f : Byte) : (s.setWithFlag x r f).unknownOp = s.unknownOp := rfl
@[simp] theorem State.setWithFlag_keyTaken (x : Reg) (r f : Byte) : (s.setWithFlag x r f).keyTaken = s.keyTaken := rfl

/-! A logic instruction writes `v` alone (R103 to R105). -/

@[simp] theorem State.setLogic_i (x : Reg) (r : Byte) : (s.setLogic x r).i = s.i := by unfold State.setLogic; split <;> rfl
@[simp] theorem State.setLogic_pc (x : Reg) (r : Byte) : (s.setLogic x r).pc = s.pc := by unfold State.setLogic; split <;> rfl
@[simp] theorem State.setLogic_stack (x : Reg) (r : Byte) : (s.setLogic x r).stack = s.stack := by unfold State.setLogic; split <;> rfl
@[simp] theorem State.setLogic_mem (x : Reg) (r : Byte) : (s.setLogic x r).mem = s.mem := by unfold State.setLogic; split <;> rfl
@[simp] theorem State.setLogic_fb (x : Reg) (r : Byte) : (s.setLogic x r).fb = s.fb := by unfold State.setLogic; split <;> rfl
@[simp] theorem State.setLogic_dt (x : Reg) (r : Byte) : (s.setLogic x r).dt = s.dt := by unfold State.setLogic; split <;> rfl
@[simp] theorem State.setLogic_st (x : Reg) (r : Byte) : (s.setLogic x r).st = s.st := by unfold State.setLogic; split <;> rfl
@[simp] theorem State.setLogic_drawReq (x : Reg) (r : Byte) : (s.setLogic x r).drawReq = s.drawReq := by unfold State.setLogic; split <;> rfl
@[simp] theorem State.setLogic_soundReq (x : Reg) (r : Byte) : (s.setLogic x r).soundReq = s.soundReq := by unfold State.setLogic; split <;> rfl
@[simp] theorem State.setLogic_status (x : Reg) (r : Byte) : (s.setLogic x r).status = s.status := by unfold State.setLogic; split <;> rfl
@[simp] theorem State.setLogic_haltCause (x : Reg) (r : Byte) : (s.setLogic x r).haltCause = s.haltCause := by unfold State.setLogic; split <;> rfl
@[simp] theorem State.setLogic_haltInfo (x : Reg) (r : Byte) : (s.setLogic x r).haltInfo = s.haltInfo := by unfold State.setLogic; split <;> rfl
@[simp] theorem State.setLogic_cfg (x : Reg) (r : Byte) : (s.setLogic x r).cfg = s.cfg := by unfold State.setLogic; split <;> rfl
@[simp] theorem State.setLogic_events (x : Reg) (r : Byte) : (s.setLogic x r).events = s.events := by unfold State.setLogic; split <;> rfl
@[simp] theorem State.setLogic_draws (x : Reg) (r : Byte) : (s.setLogic x r).draws = s.draws := by unfold State.setLogic; split <;> rfl
@[simp] theorem State.setLogic_inputs (x : Reg) (r : Byte) : (s.setLogic x r).inputs = s.inputs := by unfold State.setLogic; split <;> rfl
@[simp] theorem State.setLogic_unknownOp (x : Reg) (r : Byte) : (s.setLogic x r).unknownOp = s.unknownOp := by unfold State.setLogic; split <;> rfl
@[simp] theorem State.setLogic_keyTaken (x : Reg) (r : Byte) : (s.setLogic x r).keyTaken = s.keyTaken := by unfold State.setLogic; split <;> rfl

/-! Tick writes the timers and `soundReq` alone (R183). -/

@[simp] theorem State.tick_v : (s.tick).v = s.v := rfl
@[simp] theorem State.tick_i : (s.tick).i = s.i := rfl
@[simp] theorem State.tick_pc : (s.tick).pc = s.pc := rfl
@[simp] theorem State.tick_stack : (s.tick).stack = s.stack := rfl
@[simp] theorem State.tick_mem : (s.tick).mem = s.mem := rfl
@[simp] theorem State.tick_fb : (s.tick).fb = s.fb := rfl
@[simp] theorem State.tick_dt : (s.tick).dt = countDown s.dt := rfl
@[simp] theorem State.tick_st : (s.tick).st = countDown s.st := rfl
@[simp] theorem State.tick_drawReq : (s.tick).drawReq = s.drawReq := rfl
@[simp] theorem State.tick_soundReq : (s.tick).soundReq = (s.soundReq || s.st != 0) := rfl
@[simp] theorem State.tick_status : (s.tick).status = s.status := rfl
@[simp] theorem State.tick_haltCause : (s.tick).haltCause = s.haltCause := rfl
@[simp] theorem State.tick_haltInfo : (s.tick).haltInfo = s.haltInfo := rfl
@[simp] theorem State.tick_cfg : (s.tick).cfg = s.cfg := rfl
@[simp] theorem State.tick_events : (s.tick).events = s.events := rfl
@[simp] theorem State.tick_draws : (s.tick).draws = s.draws := rfl
@[simp] theorem State.tick_inputs : (s.tick).inputs = s.inputs := rfl
@[simp] theorem State.tick_unknownOp : (s.tick).unknownOp = s.unknownOp := rfl
@[simp] theorem State.tick_keyTaken : (s.tick).keyTaken = s.keyTaken := rfl

/-! ClearDrawRequest writes `drawReq` alone (R185). -/

@[simp] theorem State.clearDrawRequest_v : (s.clearDrawRequest).v = s.v := rfl
@[simp] theorem State.clearDrawRequest_i : (s.clearDrawRequest).i = s.i := rfl
@[simp] theorem State.clearDrawRequest_pc : (s.clearDrawRequest).pc = s.pc := rfl
@[simp] theorem State.clearDrawRequest_stack : (s.clearDrawRequest).stack = s.stack := rfl
@[simp] theorem State.clearDrawRequest_mem : (s.clearDrawRequest).mem = s.mem := rfl
@[simp] theorem State.clearDrawRequest_fb : (s.clearDrawRequest).fb = s.fb := rfl
@[simp] theorem State.clearDrawRequest_dt : (s.clearDrawRequest).dt = s.dt := rfl
@[simp] theorem State.clearDrawRequest_st : (s.clearDrawRequest).st = s.st := rfl
@[simp] theorem State.clearDrawRequest_drawReq : (s.clearDrawRequest).drawReq = false := rfl
@[simp] theorem State.clearDrawRequest_soundReq : (s.clearDrawRequest).soundReq = s.soundReq := rfl
@[simp] theorem State.clearDrawRequest_status : (s.clearDrawRequest).status = s.status := rfl
@[simp] theorem State.clearDrawRequest_haltCause : (s.clearDrawRequest).haltCause = s.haltCause := rfl
@[simp] theorem State.clearDrawRequest_haltInfo : (s.clearDrawRequest).haltInfo = s.haltInfo := rfl
@[simp] theorem State.clearDrawRequest_cfg : (s.clearDrawRequest).cfg = s.cfg := rfl
@[simp] theorem State.clearDrawRequest_events : (s.clearDrawRequest).events = s.events := rfl
@[simp] theorem State.clearDrawRequest_draws : (s.clearDrawRequest).draws = s.draws := rfl
@[simp] theorem State.clearDrawRequest_inputs : (s.clearDrawRequest).inputs = s.inputs := rfl
@[simp] theorem State.clearDrawRequest_unknownOp : (s.clearDrawRequest).unknownOp = s.unknownOp := rfl
@[simp] theorem State.clearDrawRequest_keyTaken : (s.clearDrawRequest).keyTaken = s.keyTaken := rfl

/-! ClearSoundRequest writes `soundReq` alone (R185). -/

@[simp] theorem State.clearSoundRequest_v : (s.clearSoundRequest).v = s.v := rfl
@[simp] theorem State.clearSoundRequest_i : (s.clearSoundRequest).i = s.i := rfl
@[simp] theorem State.clearSoundRequest_pc : (s.clearSoundRequest).pc = s.pc := rfl
@[simp] theorem State.clearSoundRequest_stack : (s.clearSoundRequest).stack = s.stack := rfl
@[simp] theorem State.clearSoundRequest_mem : (s.clearSoundRequest).mem = s.mem := rfl
@[simp] theorem State.clearSoundRequest_fb : (s.clearSoundRequest).fb = s.fb := rfl
@[simp] theorem State.clearSoundRequest_dt : (s.clearSoundRequest).dt = s.dt := rfl
@[simp] theorem State.clearSoundRequest_st : (s.clearSoundRequest).st = s.st := rfl
@[simp] theorem State.clearSoundRequest_drawReq : (s.clearSoundRequest).drawReq = s.drawReq := rfl
@[simp] theorem State.clearSoundRequest_soundReq : (s.clearSoundRequest).soundReq = false := rfl
@[simp] theorem State.clearSoundRequest_status : (s.clearSoundRequest).status = s.status := rfl
@[simp] theorem State.clearSoundRequest_haltCause : (s.clearSoundRequest).haltCause = s.haltCause := rfl
@[simp] theorem State.clearSoundRequest_haltInfo : (s.clearSoundRequest).haltInfo = s.haltInfo := rfl
@[simp] theorem State.clearSoundRequest_cfg : (s.clearSoundRequest).cfg = s.cfg := rfl
@[simp] theorem State.clearSoundRequest_events : (s.clearSoundRequest).events = s.events := rfl
@[simp] theorem State.clearSoundRequest_draws : (s.clearSoundRequest).draws = s.draws := rfl
@[simp] theorem State.clearSoundRequest_inputs : (s.clearSoundRequest).inputs = s.inputs := rfl
@[simp] theorem State.clearSoundRequest_unknownOp : (s.clearSoundRequest).unknownOp = s.unknownOp := rfl
@[simp] theorem State.clearSoundRequest_keyTaken : (s.clearSoundRequest).keyTaken = s.keyTaken := rfl

/-! Taking an event moves the tape and ends the strobes, and touches no state of the core (R8, R25). -/

@[simp] theorem State.takeEvent_v : (s.takeEvent).v = s.v := by cases h : s.events <;> simp [State.takeEvent, h]
@[simp] theorem State.takeEvent_i : (s.takeEvent).i = s.i := by cases h : s.events <;> simp [State.takeEvent, h]
@[simp] theorem State.takeEvent_pc : (s.takeEvent).pc = s.pc := by cases h : s.events <;> simp [State.takeEvent, h]
@[simp] theorem State.takeEvent_stack : (s.takeEvent).stack = s.stack := by cases h : s.events <;> simp [State.takeEvent, h]
@[simp] theorem State.takeEvent_mem : (s.takeEvent).mem = s.mem := by cases h : s.events <;> simp [State.takeEvent, h]
@[simp] theorem State.takeEvent_fb : (s.takeEvent).fb = s.fb := by cases h : s.events <;> simp [State.takeEvent, h]
@[simp] theorem State.takeEvent_dt : (s.takeEvent).dt = s.dt := by cases h : s.events <;> simp [State.takeEvent, h]
@[simp] theorem State.takeEvent_st : (s.takeEvent).st = s.st := by cases h : s.events <;> simp [State.takeEvent, h]
@[simp] theorem State.takeEvent_drawReq : (s.takeEvent).drawReq = s.drawReq := by cases h : s.events <;> simp [State.takeEvent, h]
@[simp] theorem State.takeEvent_soundReq : (s.takeEvent).soundReq = s.soundReq := by cases h : s.events <;> simp [State.takeEvent, h]
@[simp] theorem State.takeEvent_status : (s.takeEvent).status = s.status := by cases h : s.events <;> simp [State.takeEvent, h]
@[simp] theorem State.takeEvent_haltCause : (s.takeEvent).haltCause = s.haltCause := by cases h : s.events <;> simp [State.takeEvent, h]
@[simp] theorem State.takeEvent_haltInfo : (s.takeEvent).haltInfo = s.haltInfo := by cases h : s.events <;> simp [State.takeEvent, h]
@[simp] theorem State.takeEvent_cfg : (s.takeEvent).cfg = s.cfg := by cases h : s.events <;> simp [State.takeEvent, h]
@[simp] theorem State.takeEvent_events : (s.takeEvent).events = s.events.tail := by cases h : s.events <;> simp [State.takeEvent, h]
@[simp] theorem State.takeEvent_draws : (s.takeEvent).draws = if s.events = [] then s.draws + 1 else s.draws := by cases h : s.events <;> simp [State.takeEvent, h]
@[simp] theorem State.takeEvent_inputs : (s.takeEvent).inputs = s.inputs := by cases h : s.events <;> simp [State.takeEvent, h]
@[simp] theorem State.takeEvent_unknownOp : (s.takeEvent).unknownOp = none := by cases h : s.events <;> simp [State.takeEvent, h]
@[simp] theorem State.takeEvent_keyTaken : (s.takeEvent).keyTaken = false := by cases h : s.events <;> simp [State.takeEvent, h]

/-! `V[x]` after a write of `V[y]` (R10), and after updates that write no register. -/

@[simp] theorem State.getV_setV (x y : Reg) (b : Byte) : (s.setV x b).getV y = if x = y then b else s.getV y := by
  simp [State.getV, State.setV, Vector.getElem_set, Fin.ext_iff]

/-- Flag last: with x = 0xF the flag survives (R112). -/
@[simp] theorem State.getV_setWithFlag (x y : Reg) (r f : Byte) :
    (s.setWithFlag x r f).getV y = if y = vf then f else if x = y then r else s.getV y := by
  simp only [State.setWithFlag, State.getV_setV]
  by_cases h : y = vf <;> simp [h, eq_comm]

@[simp] theorem State.getV_setLogic (x y : Reg) (r : Byte) :
    (s.setLogic x r).getV y =
      if qLogicVfReset s.cfg ∧ y = vf then 0 else if x = y then r else s.getV y := by
  unfold State.setLogic
  by_cases h : qLogicVfReset s.cfg <;> simp [h]

/-- `getV` looks at `v` alone. -/
theorem State.getV_congr {s t : State} (h : s.v = t.v) (x : Reg) : s.getV x = t.getV x := by
  simp [State.getV, h]

/-! Making a Step the next event writes the tape and the counter alone. -/

@[simp] theorem State.awaitStep_v : (s.awaitStep).v = s.v := by unfold State.awaitStep; split <;> rfl
@[simp] theorem State.awaitStep_i : (s.awaitStep).i = s.i := by unfold State.awaitStep; split <;> rfl
@[simp] theorem State.awaitStep_pc : (s.awaitStep).pc = s.pc := by unfold State.awaitStep; split <;> rfl
@[simp] theorem State.awaitStep_stack : (s.awaitStep).stack = s.stack := by unfold State.awaitStep; split <;> rfl
@[simp] theorem State.awaitStep_mem : (s.awaitStep).mem = s.mem := by unfold State.awaitStep; split <;> rfl
@[simp] theorem State.awaitStep_fb : (s.awaitStep).fb = s.fb := by unfold State.awaitStep; split <;> rfl
@[simp] theorem State.awaitStep_dt : (s.awaitStep).dt = s.dt := by unfold State.awaitStep; split <;> rfl
@[simp] theorem State.awaitStep_st : (s.awaitStep).st = s.st := by unfold State.awaitStep; split <;> rfl
@[simp] theorem State.awaitStep_drawReq : (s.awaitStep).drawReq = s.drawReq := by unfold State.awaitStep; split <;> rfl
@[simp] theorem State.awaitStep_soundReq : (s.awaitStep).soundReq = s.soundReq := by unfold State.awaitStep; split <;> rfl
@[simp] theorem State.awaitStep_status : (s.awaitStep).status = s.status := by unfold State.awaitStep; split <;> rfl
@[simp] theorem State.awaitStep_haltCause : (s.awaitStep).haltCause = s.haltCause := by unfold State.awaitStep; split <;> rfl
@[simp] theorem State.awaitStep_haltInfo : (s.awaitStep).haltInfo = s.haltInfo := by unfold State.awaitStep; split <;> rfl
@[simp] theorem State.awaitStep_cfg : (s.awaitStep).cfg = s.cfg := by unfold State.awaitStep; split <;> rfl
@[simp] theorem State.awaitStep_inputs : (s.awaitStep).inputs = s.inputs := by unfold State.awaitStep; split <;> rfl
@[simp] theorem State.awaitStep_unknownOp : (s.awaitStep).unknownOp = s.unknownOp := by unfold State.awaitStep; split <;> rfl
@[simp] theorem State.awaitStep_keyTaken : (s.awaitStep).keyTaken = s.keyTaken := by unfold State.awaitStep; split <;> rfl

end Sys2Proof.Machine
end

