-- ==== Sys2Proof/Laws/Ops.lean ====
section
/-! SUPPORT. What each shared operation can answer, said once. -/

namespace Sys2Proof.Machine

/-- A data access answers the instruction's effect when its whole range is in memory, else the DataOutOfBounds halt with
nothing else changed (R47). -/
theorem withAccess_cases (w : Word) (len : Nat) (s t : State) :
    (inBounds s.i.toNat len = true ∧ withAccess w len s t = .next t) ∨
    (inBounds s.i.toNat len = false ∧
      withAccess w len s t =
        .next (s.halt .dataOutOfBounds ⟨s.instrAddr, w, lowestOutOfRange s.i.toNat⟩)) := by
  unfold withAccess raise
  cases h : inBounds s.i.toNat len <;> simp

/-- `pop` on a stack whose newest entry is `a` (R15). -/
@[simp] theorem State.pop_concat (s : State) (as : List Word) (a : Word) (h : s.stack = as ++ [a]) :
    s.pop = some (a, { s with stack := as }) := by
  simp [State.pop, h]

/-- `pop` on an empty stack (R15). -/
@[simp] theorem State.pop_nil (s : State) (h : s.stack = []) : s.pop = none := by
  simp [State.pop, h]

/-- What `pop` answers, in every case (R15). -/
theorem State.pop_cases (s : State) :
    (s.stack = [] ∧ s.pop = none) ∨
    (∃ as a, s.stack = as ++ [a] ∧ s.pop = some (a, { s with stack := as })) := by
  rcases List.eq_nil_or_concat s.stack with h | ⟨as, a, h⟩
  · exact .inl ⟨h, s.pop_nil h⟩
  · rw [List.concat_eq_append] at h
    exact .inr ⟨as, a, h, s.pop_concat as a h⟩

/-- The registers a block load writes are the block's, the others stay (R125). -/
theorem getElem_loadBlock (v : Vector Byte 16) (k : Nat) (bs : List Byte) (j : Nat) (hj : j < 16) :
    (loadBlock v k bs)[j] = if h : k ≤ j ∧ j - k < bs.length then bs[j - k]'h.2 else v[j] := by
  induction bs generalizing v k with
  | nil => simp [loadBlock]
  | cons b bs ih =>
    simp only [loadBlock, ih, List.length_cons]
    rcases Nat.lt_trichotomy j k with hjk | hjk | hjk
    · rw [dif_neg (by omega), dif_neg (by omega), Vector.getElem_setIfInBounds_ne hj (by omega)]
    · subst hjk
      rw [dif_neg (by omega), dif_pos (by omega)]
      simp
    · by_cases h : j - k < bs.length + 1
      · rw [dif_pos (by omega), dif_pos (by omega)]
        have : j - k = (j - (k + 1)) + 1 := by omega
        simp [this]
      · rw [dif_neg (by omega), dif_neg (by omega), Vector.getElem_setIfInBounds_ne hj (by omega)]

/-- A block load of `x + 1` bytes writes exactly the registers 0 to x (R125). -/
theorem getV_loadBlock (s : State) (x k : Reg) :
    State.getV { s with v := loadBlock s.v 0 (s.bytesAtI (x.val + 1)) } k =
      if k ≤ x then Memory.read s.mem (s.i.toNat + k.val) else s.getV k := by
  simp only [State.getV, State.bytesAtI, getElem_loadBlock, Memory.length_readBlock, Nat.zero_le, true_and,
    Nat.sub_zero, Memory.getElem_readBlock]
  by_cases h : k ≤ x
  · have h' : k.val < x.val + 1 := Nat.lt_succ_of_le h
    simp [h, h']
  · have h' : ¬ k.val < x.val + 1 := fun hk => h (Nat.le_of_lt_succ hk)
    simp [h, h']

@[simp] theorem State.length_regsUpTo (s : State) (x : Reg) : (s.regsUpTo x).length = x.val + 1 := by
  have := x.isLt
  simp [State.regsUpTo]

/-- Byte `k` of the registers stored by LD [I],Vx is V[k] (R124). -/
theorem State.getElem_regsUpTo (s : State) (x : Reg) (k : Reg) (hk : k.val < (s.regsUpTo x).length) :
    (s.regsUpTo x)[k.val] = s.getV k := by
  simp [State.regsUpTo, State.getV]

/-- The three digits are stored at three addresses (R123). -/
@[simp] theorem length_bcdDigits (b : Byte) : (bcdDigits b).length = 3 := rfl

/-- What a step can do: a HALTED core ignores the event, a RUNNING one runs it (R7, R176). -/
theorem step_cases (s : State) :
    (s.status = .halted ∧ issueEvent s = .next s.takeEvent) ∨
    (s.status = .running ∧ issueEvent s = runEvent s.nextEvent s.takeEvent) := by
  cases h : s.status <;> simp [issueEvent, h]

/-- The next event and what is left of the tape (assumption 2). -/
@[simp] theorem State.nextEvent_cons (s : State) (e : Event) (es : List Event) (h : s.events = e :: es) :
    s.nextEvent = e := by
  simp [State.nextEvent, h]

/-- Once the tape is used up the next event is a free one (R7, assumption 2). -/
@[simp] theorem State.nextEvent_nil (s : State) (h : s.events = []) : s.nextEvent = s.freeEvent := by
  simp [State.nextEvent, h]

/-- What a free event can be: any of the four events of R7 that can follow Init. -/
theorem State.freeEvent_cases (s : State) :
    s.freeEvent = .step s.freeInputs ∨ s.freeEvent = .tick ∨ s.freeEvent = .clearDrawRequest ∨
      s.freeEvent = .clearSoundRequest := by
  unfold State.freeEvent
  cases Config.freeEventKind s.draws <;> simp

/-- After `awaitStep` the next event is a Step, and only the tape and the counter have moved. -/
theorem State.awaitStep_cases (s : State) :
    ∃ inp es d, s.awaitStep = { s with events := .step inp :: es, draws := d } := by
  have hd : ∀ l : List Event, dropToStep l = [] ∨ ∃ inp es, dropToStep l = .step inp :: es := by
    intro l
    induction l with
    | nil => exact .inl rfl
    | cons e l ih => cases e with
      | step inp => exact .inr ⟨inp, l, rfl⟩
      | _ => exact ih
  unfold State.awaitStep
  rcases hd s.events with h | ⟨inp, es, h⟩ <;> rw [h]
  · exact ⟨_, _, _, rfl⟩
  · exact ⟨inp, es, s.draws, rfl⟩

/-- A stored timer counts down to 0 and stays there (R183). -/
theorem toNat_countDown (t : Byte) : (countDown t).toNat = t.toNat - 1 := by
  unfold countDown
  by_cases h : t = 0
  · simp [h]
  · have h0 : 1 ≤ t.toNat := Nat.one_le_iff_ne_zero.mpr fun h' => h (BitVec.eq_of_toNat_eq h')
    rw [if_neg h, BitVec.toNat_sub_of_le (by simpa [BitVec.le_def] using h0)]
    rfl

end Sys2Proof.Machine
end

