-- ==== Sys2Proof/Laws/PerInstr.lean ====
section
/-! SUPPORT. Family TableRow: the word that encodes an instruction selects the instruction's own row of spec/30_encoding.md R65, `w &&& mask = match`. -/

namespace Sys2Proof.Laws.TableRow

/-- The encoded word selects the row of R65 that has the instruction's number. -/
def Statement (i : Instr) : Prop :=
  ∃ r ∈ opcodeTable, r.number = rowNumber i ∧ r.selectedBy (encodeWord i) = true

/-- A row of the table whose mask leaves its pattern of the encoded word. -/
theorem of_row {i : Instr} (r : OpcodeRow) (hr : r ∈ opcodeTable) (hn : r.number = rowNumber i)
    (h : encodeWord i &&& r.mask = r.pattern) : Statement i :=
  ⟨r, hr, hn, by simp [OpcodeRow.selectedBy, h]⟩

theorem cls : Statement .cls :=
  of_row ⟨1, 0x00E0, 0xFFFF⟩ (by decide) rfl rfl

theorem ret : Statement .ret :=
  of_row ⟨2, 0x00EE, 0xFFFF⟩ (by decide) rfl rfl

theorem jpAddr (nnn : Addr12) : Statement (.jpAddr nnn) :=
  of_row ⟨3, 0x1000, 0xF000⟩ (by decide) rfl (wordNNN_and _ _)

theorem callAddr (nnn : Addr12) : Statement (.callAddr nnn) :=
  of_row ⟨4, 0x2000, 0xF000⟩ (by decide) rfl (wordNNN_and _ _)

theorem seVxByte (x : Reg) (nn : Byte) : Statement (.seVxByte x nn) :=
  of_row ⟨5, 0x3000, 0xF000⟩ (by decide) rfl (wordXNN_and_op _ _ _)

theorem sneVxByte (x : Reg) (nn : Byte) : Statement (.sneVxByte x nn) :=
  of_row ⟨6, 0x4000, 0xF000⟩ (by decide) rfl (wordXNN_and_op _ _ _)

theorem seVxVy (x y : Reg) : Statement (.seVxVy x y) :=
  of_row ⟨7, 0x5000, 0xF00F⟩ (by decide) rfl (wordXYN_and_n _ _ _ _)

theorem sneVxVy (x y : Reg) : Statement (.sneVxVy x y) :=
  of_row ⟨8, 0x9000, 0xF00F⟩ (by decide) rfl (wordXYN_and_n _ _ _ _)

theorem ldVxByte (x : Reg) (nn : Byte) : Statement (.ldVxByte x nn) :=
  of_row ⟨9, 0x6000, 0xF000⟩ (by decide) rfl (wordXNN_and_op _ _ _)

theorem addVxByte (x : Reg) (nn : Byte) : Statement (.addVxByte x nn) :=
  of_row ⟨10, 0x7000, 0xF000⟩ (by decide) rfl (wordXNN_and_op _ _ _)

theorem ldVxVy (x y : Reg) : Statement (.ldVxVy x y) :=
  of_row ⟨11, 0x8000, 0xF00F⟩ (by decide) rfl (wordXYN_and_n _ _ _ _)

theorem orVxVy (x y : Reg) : Statement (.orVxVy x y) :=
  of_row ⟨12, 0x8001, 0xF00F⟩ (by decide) rfl (wordXYN_and_n _ _ _ _)

theorem andVxVy (x y : Reg) : Statement (.andVxVy x y) :=
  of_row ⟨13, 0x8002, 0xF00F⟩ (by decide) rfl (wordXYN_and_n _ _ _ _)

theorem xorVxVy (x y : Reg) : Statement (.xorVxVy x y) :=
  of_row ⟨14, 0x8003, 0xF00F⟩ (by decide) rfl (wordXYN_and_n _ _ _ _)

theorem addVxVy (x y : Reg) : Statement (.addVxVy x y) :=
  of_row ⟨15, 0x8004, 0xF00F⟩ (by decide) rfl (wordXYN_and_n _ _ _ _)

theorem subVxVy (x y : Reg) : Statement (.subVxVy x y) :=
  of_row ⟨16, 0x8005, 0xF00F⟩ (by decide) rfl (wordXYN_and_n _ _ _ _)

theorem subnVxVy (x y : Reg) : Statement (.subnVxVy x y) :=
  of_row ⟨17, 0x8007, 0xF00F⟩ (by decide) rfl (wordXYN_and_n _ _ _ _)

theorem shrVxVy (x y : Reg) : Statement (.shrVxVy x y) :=
  of_row ⟨18, 0x8006, 0xF00F⟩ (by decide) rfl (wordXYN_and_n _ _ _ _)

theorem shlVxVy (x y : Reg) : Statement (.shlVxVy x y) :=
  of_row ⟨19, 0x800E, 0xF00F⟩ (by decide) rfl (wordXYN_and_n _ _ _ _)

theorem ldIAddr (nnn : Addr12) : Statement (.ldIAddr nnn) :=
  of_row ⟨20, 0xA000, 0xF000⟩ (by decide) rfl (wordNNN_and _ _)

theorem jpV0Addr (nnn : Addr12) : Statement (.jpV0Addr nnn) :=
  of_row ⟨21, 0xB000, 0xF000⟩ (by decide) rfl (wordNNN_and _ _)

theorem rndVxByte (x : Reg) (nn : Byte) : Statement (.rndVxByte x nn) :=
  of_row ⟨22, 0xC000, 0xF000⟩ (by decide) rfl (wordXNN_and_op _ _ _)

theorem drwVxVyN (x y : Reg) (n : Nibble) : Statement (.drwVxVyN x y n) :=
  of_row ⟨23, 0xD000, 0xF000⟩ (by decide) rfl (wordXYN_and_op _ _ _ _)

theorem skpVx (x : Reg) : Statement (.skpVx x) :=
  of_row ⟨24, 0xE09E, 0xF0FF⟩ (by decide) rfl (wordXNN_and_nn _ _ _)

theorem sknpVx (x : Reg) : Statement (.sknpVx x) :=
  of_row ⟨25, 0xE0A1, 0xF0FF⟩ (by decide) rfl (wordXNN_and_nn _ _ _)

theorem ldVxDt (x : Reg) : Statement (.ldVxDt x) :=
  of_row ⟨26, 0xF007, 0xF0FF⟩ (by decide) rfl (wordXNN_and_nn _ _ _)

theorem ldDtVx (x : Reg) : Statement (.ldDtVx x) :=
  of_row ⟨27, 0xF015, 0xF0FF⟩ (by decide) rfl (wordXNN_and_nn _ _ _)

theorem ldStVx (x : Reg) : Statement (.ldStVx x) :=
  of_row ⟨28, 0xF018, 0xF0FF⟩ (by decide) rfl (wordXNN_and_nn _ _ _)

theorem addIVx (x : Reg) : Statement (.addIVx x) :=
  of_row ⟨29, 0xF01E, 0xF0FF⟩ (by decide) rfl (wordXNN_and_nn _ _ _)

theorem ldVxK (x : Reg) : Statement (.ldVxK x) :=
  of_row ⟨30, 0xF00A, 0xF0FF⟩ (by decide) rfl (wordXNN_and_nn _ _ _)

theorem ldFVx (x : Reg) : Statement (.ldFVx x) :=
  of_row ⟨31, 0xF029, 0xF0FF⟩ (by decide) rfl (wordXNN_and_nn _ _ _)

theorem ldBVx (x : Reg) : Statement (.ldBVx x) :=
  of_row ⟨32, 0xF033, 0xF0FF⟩ (by decide) rfl (wordXNN_and_nn _ _ _)

theorem ldMemVx (x : Reg) : Statement (.ldMemVx x) :=
  of_row ⟨33, 0xF055, 0xF0FF⟩ (by decide) rfl (wordXNN_and_nn _ _ _)

theorem ldVxMem (x : Reg) : Statement (.ldVxMem x) :=
  of_row ⟨34, 0xF065, 0xF0FF⟩ (by decide) rfl (wordXNN_and_nn _ _ _)

end Sys2Proof.Laws.TableRow
end

