-- ==== Sys2Proof/Machine/Assembly.lean ====
section
/-! DEFINITION. The assembler syntax of spec/30_encoding.md R68: how each instruction is written. -/

namespace Sys2Proof.Machine

/-- A hexadecimal digit. -/
def hexDigit (d : Nat) : String :=
  ["0", "1", "2", "3", "4", "5", "6", "7", "8", "9", "A", "B", "C", "D", "E", "F"].getD d ""

/-- A general register: V0 to VF with a hexadecimal digit. -/
def regName (x : Reg) : String :=
  "V" ++ hexDigit x.val

/-- The operand `byte`, in hexadecimal with a 0x prefix. -/
def byteText (b : Byte) : String :=
  "0x" ++ hexDigit (b.toNat / 16) ++ hexDigit (b.toNat % 16)

/-- The operand `addr`, in hexadecimal with a 0x prefix. -/
def addrText (a : Addr12) : String :=
  "0x" ++ hexDigit (a.toNat / 256) ++ hexDigit (a.toNat / 16 % 16) ++ hexDigit (a.toNat % 16)

/-- The operand `n`, in hexadecimal with a 0x prefix. -/
def nibbleText (n : Nibble) : String :=
  "0x" ++ hexDigit n.toNat

/-- Mnemonic and two operands, destination first, separated by a comma. -/
def twoOperands (mnemonic a b : String) : String :=
  mnemonic ++ " " ++ a ++ "," ++ b

/-- The text of an instruction (R68), the shifts with their optional Vy. -/
def assembly : Instr → String
  | .cls => "CLS"
  | .ret => "RET"
  | .jpAddr nnn => "JP " ++ addrText nnn
  | .callAddr nnn => "CALL " ++ addrText nnn
  | .seVxByte x nn => twoOperands "SE" (regName x) (byteText nn)
  | .sneVxByte x nn => twoOperands "SNE" (regName x) (byteText nn)
  | .seVxVy x y => twoOperands "SE" (regName x) (regName y)
  | .sneVxVy x y => twoOperands "SNE" (regName x) (regName y)
  | .ldVxByte x nn => twoOperands "LD" (regName x) (byteText nn)
  | .addVxByte x nn => twoOperands "ADD" (regName x) (byteText nn)
  | .ldVxVy x y => twoOperands "LD" (regName x) (regName y)
  | .orVxVy x y => twoOperands "OR" (regName x) (regName y)
  | .andVxVy x y => twoOperands "AND" (regName x) (regName y)
  | .xorVxVy x y => twoOperands "XOR" (regName x) (regName y)
  | .addVxVy x y => twoOperands "ADD" (regName x) (regName y)
  | .subVxVy x y => twoOperands "SUB" (regName x) (regName y)
  | .subnVxVy x y => twoOperands "SUBN" (regName x) (regName y)
  | .shrVxVy x y => twoOperands "SHR" (regName x) (regName y)
  | .shlVxVy x y => twoOperands "SHL" (regName x) (regName y)
  | .ldIAddr nnn => twoOperands "LD" "I" (addrText nnn)
  | .jpV0Addr nnn => twoOperands "JP" "V0" (addrText nnn)
  | .rndVxByte x nn => twoOperands "RND" (regName x) (byteText nn)
  | .drwVxVyN x y n => twoOperands "DRW" (regName x) (regName y) ++ "," ++ nibbleText n
  | .skpVx x => "SKP " ++ regName x
  | .sknpVx x => "SKNP " ++ regName x
  | .ldVxDt x => twoOperands "LD" (regName x) "DT"
  | .ldDtVx x => twoOperands "LD" "DT" (regName x)
  | .ldStVx x => twoOperands "LD" "ST" (regName x)
  | .addIVx x => twoOperands "ADD" "I" (regName x)
  | .ldVxK x => twoOperands "LD" (regName x) "K"
  | .ldFVx x => twoOperands "LD" "F" (regName x)
  | .ldBVx x => twoOperands "LD" "B" (regName x)
  | .ldMemVx x => twoOperands "LD" "[I]" (regName x)
  | .ldVxMem x => twoOperands "LD" (regName x) "[I]"

/-- SHR and SHL written without their optional Vy: the y field is encoded as 0 (R68, from general knowledge). -/
def shiftWithoutVy (shift : Reg → Reg → Instr) (x : Reg) : Instr :=
  shift x 0

end Sys2Proof.Machine
end

