-- ==== Sys2Proof/Machine/Ports.lean ====
section
/-! DEFINITION. The output ports of the core (spec/10_state.md R25, R27, spec/60_exceptions.md R186 to R188), as functions of the state after an event. -/

namespace Sys2Proof.Machine

/-- `status` as a one-bit port: RUNNING = 0, HALTED = 1 (R27). -/
def Status.port : Status → BitVec 1
  | .running => 0
  | .halted => 1

/-- What the driver and its collaborators see after an event (R25). -/
structure OutputPorts where
  drawReq : Bool
  soundReq : Bool
  unknownOp : Option UnknownReport
  keyTaken : Bool
  status : BitVec 1
  haltCause : BitVec 3
  haltInfo : HaltInfo
deriving DecidableEq, Repr

/-- The output ports but for the framebuffer's read port. -/
def State.outputs (s : State) : OutputPorts where
  drawReq := s.drawReq
  soundReq := s.soundReq
  unknownOp := s.unknownOp
  keyTaken := s.keyTaken
  status := s.status.port
  haltCause := s.haltCause
  haltInfo := s.haltInfo

/-- The framebuffer's read port: the pixel at column `px`, row `py` (R17, R25, R186). -/
def State.pixel (s : State) (px py : Nat) : Bool :=
  s.fb.cell (px + 64 * py)

end Sys2Proof.Machine
end

