-- ==== Sys2Proof/Tests/Slice0.lean ====
section
/-! SUPPORT. The model's own tests. Expected values come from spec/95_test_vectors.md (the vector's id stands in the theorem's comment) or are worked out by hand from the rule named. -/

open Sys2Proof Sys2Proof.Machine Sys2Proof.Claims

namespace Sys2Proof.Tests

/-! ## Helpers -/

/-- Inputs with no key and rnd 0. -/
def quiet : StepInputs := ⟨0, none, 0⟩

/-- The reset state with one quiet Step on the tape. -/
def base : State := { State.reset with events := [.step quiet] }

/-- `base` in another mode, with that mode's default parameters. -/
def baseIn (m : Mode) : State := { base with cfg := Configuration.defaults m }

/-- Some registers set. -/
def withRegs (l : List (Reg × Byte)) (s : State) : State :=
  l.foldl (fun s p => s.setV p.1 p.2) s

/-- Some memory bytes set, from an address upward. -/
def withBytes (a : Nat) (bs : List Byte) (s : State) : State :=
  { s with mem := Memory.writeBlock s.mem a bs }

/-- Some framebuffer cells on. -/
def withCells (l : List Nat) (s : State) : State :=
  { s with fb := l.foldl Framebuffer.toggle s.fb }

/-- The Step that runs the word `w`. -/
def runWord (w : Nat) (s : State) : Outcome := step (s.withFetchWord 16 w)

/-- What `f` sees of the next state, none when there is no next state. -/
def look {α : Type} (o : Outcome) (f : State → α) : Option α :=
  match o with
  | .next t => some (f t)
  | .fault _ => none
  | .refused _ => none

/-- The record of a halt, with PC. -/
def halted (s : State) : Status × BitVec 3 × HaltInfo × Word := (s.status, s.haltCause, s.haltInfo, s.pc)

/-! ## WellFormed: each check refuses an ill-formed term (R4, R19, R201) -/

theorem test_wf_refuses_stack_depth_zero :
    Configuration.wellFormed { Configuration.defaults .legacy with stackDepth := some 0 } = false := by decide
theorem test_wf_accepts_finite_stack :
    Configuration.wellFormed { Configuration.defaults .legacy with stackDepth := some 12 } = true := by decide
theorem test_wf_refuses_short_font : fontWellFormed (defaultFont.take 79) = false := by decide
theorem test_wf_refuses_long_image : imageWellFormed (List.replicate 3585 0xAA) = false :=
  decide_eq_false (by rw [List.length_replicate]; decide)
theorem test_wf_accepts_largest_image : imageWellFormed (List.replicate 3584 0xAA) = true :=
  decide_eq_true (by rw [List.length_replicate]; decide)
theorem test_wf_refuses_mode_port_3 : Mode.ofPort 3 = none ∧ Mode.ofPort Mode.xochip.port = some .xochip := by decide

/-! ## Decoding: a word of every row of R65, written out from its encoding -/

theorem test_decode_00E0 : decodeTableWord 16 0x00E0 = some .cls := by decide
theorem test_decode_00EE : decodeTableWord 16 0x00EE = some .ret := by decide
theorem test_decode_1nnn : decodeTableWord 16 0x1ABC = some (.jpAddr 0xABC) := by decide
theorem test_decode_2nnn : decodeTableWord 16 0x2456 = some (.callAddr 0x456) := by decide
theorem test_decode_3xnn : decodeTableWord 16 0x3F01 = some (.seVxByte 15 0x01) := by decide
theorem test_decode_4xnn : decodeTableWord 16 0x4A37 = some (.sneVxByte 10 0x37) := by decide
theorem test_decode_5xy0 : decodeTableWord 16 0x5120 = some (.seVxVy 1 2) := by decide
theorem test_decode_9xy0 : decodeTableWord 16 0x9120 = some (.sneVxVy 1 2) := by decide
theorem test_decode_6xnn : decodeTableWord 16 0x6014 = some (.ldVxByte 0 0x14) := by decide
theorem test_decode_7xnn : decodeTableWord 16 0x7A05 = some (.addVxByte 10 0x05) := by decide
theorem test_decode_8xy0 : decodeTableWord 16 0x8120 = some (.ldVxVy 1 2) := by decide
theorem test_decode_8xy1 : decodeTableWord 16 0x8F11 = some (.orVxVy 15 1) := by decide
theorem test_decode_8xy2 : decodeTableWord 16 0x81F2 = some (.andVxVy 1 15) := by decide
theorem test_decode_8xy3 : decodeTableWord 16 0x8123 = some (.xorVxVy 1 2) := by decide
theorem test_decode_8xy4 : decodeTableWord 16 0x8124 = some (.addVxVy 1 2) := by decide
theorem test_decode_8xy5 : decodeTableWord 16 0x8125 = some (.subVxVy 1 2) := by decide
theorem test_decode_8xy7 : decodeTableWord 16 0x8127 = some (.subnVxVy 1 2) := by decide
theorem test_decode_8xy6 : decodeTableWord 16 0x8126 = some (.shrVxVy 1 2) := by decide
theorem test_decode_8xyE : decodeTableWord 16 0x812E = some (.shlVxVy 1 2) := by decide
theorem test_decode_Annn : decodeTableWord 16 0xA2F0 = some (.ldIAddr 0x2F0) := by decide
theorem test_decode_Bnnn : decodeTableWord 16 0xB2FF = some (.jpV0Addr 0x2FF) := by decide
theorem test_decode_Cxnn : decodeTableWord 16 0xC30F = some (.rndVxByte 3 0x0F) := by decide
theorem test_decode_Dxyn : decodeTableWord 16 0xD45F = some (.drwVxVyN 4 5 0xF) := by decide
theorem test_decode_Ex9E : decodeTableWord 16 0xE19E = some (.skpVx 1) := by decide
theorem test_decode_ExA1 : decodeTableWord 16 0xE1A1 = some (.sknpVx 1) := by decide
theorem test_decode_Fx07 : decodeTableWord 16 0xF407 = some (.ldVxDt 4) := by decide
theorem test_decode_Fx15 : decodeTableWord 16 0xF415 = some (.ldDtVx 4) := by decide
theorem test_decode_Fx18 : decodeTableWord 16 0xF518 = some (.ldStVx 5) := by decide
theorem test_decode_Fx1E : decodeTableWord 16 0xF21E = some (.addIVx 2) := by decide
theorem test_decode_Fx0A : decodeTableWord 16 0xF30A = some (.ldVxK 3) := by decide
theorem test_decode_Fx29 : decodeTableWord 16 0xF029 = some (.ldFVx 0) := by decide
theorem test_decode_Fx33 : decodeTableWord 16 0xF333 = some (.ldBVx 3) := by decide
theorem test_decode_Fx55 : decodeTableWord 16 0xF255 = some (.ldMemVx 2) := by decide
theorem test_decode_Fx65 : decodeTableWord 16 0xF165 = some (.ldVxMem 1) := by decide

/-- T30 to T45: words that no row selects. -/
theorem test_decode_unknown : [0x0000, 0x00E1, 0x01E0, 0x0FEE, 0x0FFF, 0x5121, 0x8128, 0x812F, 0x9121, 0xE19F, 0xE0A2,
    0xF000, 0xF130, 0xF175, 0x00FB, 0x00FF].map (decodeTableWord 16) = List.replicate 16 none := by decide

/-- R42: the first byte of an instruction is the high one; R62: one byte is no instruction. -/
theorem test_decode_bytes : decode [0x12, 0x34, 0x56] = .ok (.jpAddr 0x234, [0x56]) ∧ decode [0x12] = .error .truncated ∧
    decode [0x01, 0xE0] = .error (.unknown 0x01E0) := by decide
theorem test_encode_bytes : encode (.drwVxVyN 4 5 0xF) = [0xD4, 0x5F] ∧ encode (.ldBVx 3) = [0xF3, 0x33] := by decide

/-- R68: the source's three worked spellings. -/
theorem test_assembly : ([0x6014, 0x3014, 0x1204].map fun w => (decodeWord w).map assembly) =
    [some "LD V0,0x14", some "SE V0,0x14", some "JP 0x204"] := by decide

/-! ## Control transfer -/

/-- T1 -/
theorem test_ret : look (runWord 0x00EE { base with pc := 0x400, stack := [0x206, 0x310] }) (fun t => (t.pc, t.stack)) =
    some (0x310, [0x206]) := by decide
/-- T2 -/
theorem test_ret_underflow : look (runWord 0x00EE base) (fun t => (halted t, t.stack)) =
    some ((.halted, 1, ⟨0x200, 0x00EE, 0⟩, 0x202), []) := by decide
/-- T5 -/
theorem test_jp : look (runWord 0x1FFF base) (fun t => (t.pc, t.status)) = some (0xFFF, .running) := by decide
/-- T8 -/
theorem test_call : look (runWord 0x2456 { base with pc := 0xFFE }) (fun t => (t.pc, t.stack)) = some (0x456, [0x1000]) := by
  decide
/-- T9 -/
theorem test_call_overflow : look (runWord 0x2300 { base with
      stack := [0x204], cfg := { base.cfg with stackDepth := some 1 } }) (fun t => (halted t, t.stack)) =
    some ((.halted, 4, ⟨0x200, 0x2300, 0x202⟩, 0x202), [0x204]) := by decide
/-- T10, T11 -/
theorem test_se_byte : look (runWord 0x3F01 (withRegs [(15, 1)] base)) State.pc = some 0x204 ∧
    look (runWord 0x3F01 (withRegs [(15, 2)] base)) State.pc = some 0x202 := by decide
/-- T13, T14 -/
theorem test_sne_byte : look (runWord 0x4A00 base) State.pc = some 0x202 ∧
    look (runWord 0x4A00 (withRegs [(10, 0xFF)] base)) State.pc = some 0x204 := by decide
/-- T16, T17 -/
theorem test_se_reg : look (runWord 0x5120 (withRegs [(1, 1), (2, 2)] base)) State.pc = some 0x202 ∧
    look (runWord 0x5120 (withRegs [(1, 0x7F), (2, 0x7F)] base)) State.pc = some 0x204 := by decide
/-- T18, T19 -/
theorem test_sne_reg : look (runWord 0x9AA0 (withRegs [(10, 9)] base)) State.pc = some 0x202 ∧
    look (runWord 0x9120 (withRegs [(1, 1), (2, 2)] base)) State.pc = some 0x204 := by decide
/-- T21, T22, T23 -/
theorem test_jp_v0_modes : ([Mode.legacy, .schip, .xochip].map fun m =>
    look (runWord 0xB2FF (withRegs [(0, 3), (2, 0xFF)] (baseIn m))) State.pc) = [some 0x302, some 0x3FE, some 0x3FE] := by
  decide
/-- T24 -/
theorem test_jp_v0_largest : look (runWord 0xBFFF (withRegs [(0, 0xFF), (15, 0xFF)] base)) State.pc = some 0x10FE := by decide

/-! ## ALU -/

/-- T48 -/
theorem test_ld_byte : look (runWord 0x6FFF base) (fun t => (t.getV 15, t.getV 14)) = some (0xFF, 0) := by decide
/-- T49, T51 -/
theorem test_add_byte : look (runWord 0x7A05 (withRegs [(10, 0xFE)] base)) (fun t => (t.getV 10, t.getV 15)) = some (3, 0) ∧
    look (runWord 0x7F01 (withRegs [(15, 0xFF)] base)) (fun t => t.getV 15) = some 0 := by decide
/-- T52 -/
theorem test_ld_reg : look (runWord 0x8120 (withRegs [(2, 0x33)] base)) (fun t => (t.getV 1, t.getV 2)) = some (0x33, 0x33) := by
  decide
/-- `base` with QUIRK_LOGIC_VF_RESET false in LEGACY. -/
def noReset : State := { base with cfg := { base.cfg with logicVfReset := ⟨false, true, true⟩ } }
/-- T54, T61 -/
theorem test_or : look (runWord 0x8121 (withRegs [(1, 0x0F), (2, 0xF0), (15, 1)] base)) (fun t => (t.getV 1, t.getV 15)) =
      some (0xFF, 0) ∧
    look (runWord 0x8F11 (withRegs [(1, 0xAA), (15, 0x55)] noReset)) (fun t => t.getV 15) = some 0xFF := by decide
/-- T62, T58 -/
theorem test_and : look (runWord 0x81F2 (withRegs [(1, 0xFF), (15, 0x0F)] base)) (fun t => (t.getV 1, t.getV 15)) =
      some (0x0F, 0) ∧
    look (runWord 0x8122 (withRegs [(1, 0x3C), (2, 0x0F), (15, 1)] noReset)) (fun t => (t.getV 1, t.getV 15)) =
      some (0x0C, 1) := by decide
/-- T56, T63 -/
theorem test_xor : look (runWord 0x8123 (withRegs [(1, 0xFF), (2, 0x0F), (15, 1)] base)) (fun t => (t.getV 1, t.getV 15)) =
      some (0xF0, 0) ∧
    look (runWord 0x8113 (withRegs [(1, 0x5A), (15, 1)] base)) (fun t => (t.getV 1, t.getV 15)) = some (0, 0) := by decide
/-- T65, T66 -/
theorem test_add : look (runWord 0x8124 (withRegs [(1, 0xFF), (2, 1)] base)) (fun t => (t.getV 1, t.getV 15)) = some (0, 1) ∧
    look (runWord 0x8124 (withRegs [(1, 0x80), (2, 0x7F), (15, 1)] base)) (fun t => (t.getV 1, t.getV 15)) =
      some (0xFF, 0) := by decide
/-- T69, T71 -/
theorem test_add_vf : look (runWord 0x8F14 (withRegs [(15, 0xF0), (1, 0x20)] base)) (fun t => t.getV 15) = some 1 ∧
    look (runWord 0x81F4 (withRegs [(1, 0xFF), (15, 1)] base)) (fun t => (t.getV 1, t.getV 15)) = some (0, 1) := by decide
/-- T73, T74 -/
theorem test_sub : look (runWord 0x8125 (withRegs [(1, 5), (2, 10)] base)) (fun t => (t.getV 1, t.getV 15)) = some (0xFB, 0) ∧
    look (runWord 0x8125 (withRegs [(1, 0x42), (2, 0x42)] base)) (fun t => (t.getV 1, t.getV 15)) = some (0, 1) := by decide
/-- T79, T80, T82 -/
theorem test_subn : look (runWord 0x8127 (withRegs [(1, 5), (2, 10)] base)) (fun t => (t.getV 1, t.getV 15)) = some (5, 1) ∧
    look (runWord 0x8127 (withRegs [(1, 10), (2, 5)] base)) (fun t => (t.getV 1, t.getV 15)) = some (0xFB, 0) ∧
    look (runWord 0x8F17 (withRegs [(15, 5), (1, 3)] base)) (fun t => t.getV 15) = some 0 := by decide
/-- T83, T84, T85 -/
theorem test_shr_modes : ([Mode.legacy, .schip, .xochip].map fun m =>
    look (runWord 0x8126 (withRegs [(1, 0xAA), (2, 3)] (baseIn m))) (fun t => (t.getV 1, t.getV 15))) =
    [some (1, 1), some (0x55, 0), some (1, 1)] := by decide
/-- T95, T96 -/
theorem test_shr_vf : ([Mode.legacy, .schip].map fun m =>
    look (runWord 0x81F6 (withRegs [(1, 4), (15, 3)] (baseIn m))) (fun t => (t.getV 1, t.getV 15))) =
    [some (1, 1), some (2, 0)] := by decide
/-- T98, T99, T100 -/
theorem test_shl_modes : ([Mode.legacy, .schip, .xochip].map fun m =>
    look (runWord 0x812E (withRegs [(1, 0x81), (2, 0x40)] (baseIn m))) (fun t => (t.getV 1, t.getV 15))) =
    [some (0x80, 0), some (2, 1), some (0x80, 0)] := by decide
/-- T107, T108 -/
theorem test_shl_vf : ([Mode.legacy, .schip].map fun m =>
    look (runWord 0x8F1E (withRegs [(15, 0x40), (1, 0x80)] (baseIn m))) (fun t => t.getV 15)) = [some 1, some 0] := by decide
/-- T110, T113 -/
theorem test_rnd : look (runWord 0xC30F { base with events := [.step ⟨0, none, 0xA7⟩] }) (fun t => t.getV 3) = some 7 ∧
    look (runWord 0xCF01 { withRegs [(15, 0xFF)] base with events := [.step ⟨0, none, 0xFE⟩] }) (fun t => t.getV 15) =
      some 0 := by decide

/-! ## Index register, loads and stores -/

/-- T115 -/
theorem test_ld_i : look (runWord 0xAFFF base) State.i = some 0xFFF := by decide
/-- T117, T118 -/
theorem test_add_i : look (runWord 0xF21E (withRegs [(2, 1)] { base with i := 0xFFF })) (fun t => (t.i, t.getV 15)) =
      some (0x1000, 0) ∧
    look (runWord 0xF21E (withRegs [(2, 2)] { base with i := 0xFFFF })) State.i = some 1 := by decide
/-- T122, T124 -/
theorem test_ld_f : look (runWord 0xF029 (withRegs [(0, 15)] base)) State.i = some 0x4B ∧
    look (runWord 0xF029 (withRegs [(0, 0xFF)] base)) State.i = some 0x4FB := by decide
/-- T126, T128 -/
theorem test_ld_b : look (runWord 0xF333 (withRegs [(3, 0xFF)] (withBytes 0x300 [9, 9, 9] { base with i := 0x300 })))
      (fun t => (Memory.readBlock t.mem 0x300 3, t.i)) = some ([2, 5, 5], 0x300) ∧
    look (runWord 0xF333 (withRegs [(3, 7)] (withBytes 0xFFD [9, 9, 9] { base with i := 0xFFD })))
      (fun t => Memory.readBlock t.mem 0xFFD 3) = some [0, 0, 7] := by decide
/-- T129, T130 -/
theorem test_ld_b_out_of_range : look (runWord 0xF333 { base with i := 0xFFE }) (fun t => (halted t, Memory.read t.mem 0xFFE)) =
      some ((.halted, 3, ⟨0x200, 0xF333, 0x1000⟩, 0x202), 0) ∧
    look (runWord 0xF333 { base with i := 0x1001 }) halted = some (.halted, 3, ⟨0x200, 0xF333, 0x1001⟩, 0x202) := by decide
/-- Four registers for the block transfers. -/
def four (s : State) : State := withRegs [(0, 0x11), (1, 0x22), (2, 0x33), (3, 0x44)] { s with i := 0x400 }
/-- `base` with one QUIRK_MEM_I_INC in LEGACY. -/
def inc (q : MemIInc) : State := { base with cfg := { base.cfg with memIInc := ⟨q, .none, .byOne⟩ } }
/-- T132, T133, T134 -/
theorem test_ld_mem : ([MemIInc.none, .byOne, .byCount].map fun q =>
    look (runWord 0xF255 (four (inc q))) (fun t => (Memory.readBlock t.mem 0x400 4, t.i))) =
    [some ([0x11, 0x22, 0x33, 0], 0x400), some ([0x11, 0x22, 0x33, 0], 0x401), some ([0x11, 0x22, 0x33, 0], 0x403)] := by
  decide
/-- T141 -/
theorem test_ld_mem_out_of_range : look (runWord 0xF055 (withRegs [(0, 1)] { baseIn .xochip with i := 0x1000 }))
    (fun t => (halted t, t.i)) = some ((.halted, 3, ⟨0x200, 0xF055, 0x1000⟩, 0x202), 0x1000) := by decide
/-- T142, T143, T144 -/
theorem test_ld_regs : ([MemIInc.none, .byOne, .byCount].map fun q =>
    look (runWord 0xF165 (withBytes 0x400 [0xAA, 0xBB, 0xCC] (withRegs [(2, 0x77)] { inc q with i := 0x400 })))
      (fun t => (t.getV 0, t.getV 1, t.getV 2, t.i))) =
    [some (0xAA, 0xBB, 0x77, 0x400), some (0xAA, 0xBB, 0x77, 0x401), some (0xAA, 0xBB, 0x77, 0x402)] := by decide
/-- T145 -/
theorem test_ld_regs_font : look (runWord 0xFF65 base) (fun t => t.v.toList) =
    some [0xF0, 0x90, 0x90, 0x90, 0xF0, 0x20, 0x60, 0x20, 0x20, 0x70, 0xF0, 0x10, 0xF0, 0x80, 0xF0, 0xF0] := by decide

/-! ## Display -/

/-- T148 -/
theorem test_cls : look (runWord 0x00E0 (withCells [0, 63 + 64 * 31, 10 + 64 * 5] base)) (fun t => (t.fb, t.drawReq)) =
    some (State.reset.fb, true) := by decide
/-- T151: one pixel already on goes off, VF = 1. -/
theorem test_drw : look (runWord 0xD015 (withCells [0] base)) (fun t => (t.fb.toList.take 6, t.getV 15, t.drawReq)) =
    some ([0b1110, 0b1001, 0b1001, 0b1001, 0b1111, 0], 1, true) := by decide
/-- T168, T170: a clipped pixel cannot collide, a wrapped one can. -/
theorem test_drw_edge : ([Mode.legacy, .xochip].map fun m =>
    look (runWord 0xD011 (withBytes 0x300 [0xFF] (withCells [0] (withRegs [(0, 0x3E)] { baseIn m with i := 0x300 }))))
      (fun t => (t.fb[0], t.getV 15))) =
    [some (0xC000000000000001, 0), some (0xC00000000000003E, 1)] := by decide

/-! ## Keys and timers -/

/-- T178, T179 -/
theorem test_skp : look (runWord 0xE19E { withRegs [(1, 5)] base with events := [.step ⟨0xFFDF, none, 0⟩] }) State.pc =
      some 0x202 ∧
    look (runWord 0xE19E { withRegs [(1, 0x15)] base with events := [.step ⟨0xFFFF, none, 0⟩] }) State.pc = some 0x202 := by
  decide
/-- T177 -/
theorem test_skp_held : look (runWord 0xE19E { withRegs [(1, 5)] base with events := [.step ⟨0x0020, none, 0⟩] }) State.pc =
    some 0x204 := by decide
/-- T180, T182 -/
theorem test_sknp : look (runWord 0xE1A1 { withRegs [(1, 5)] base with events := [.step ⟨0x0020, none, 0⟩] }) State.pc =
      some 0x202 ∧
    look (runWord 0xE1A1 { withRegs [(1, 0x15)] base with events := [.step ⟨0xFFFF, none, 0⟩] }) State.pc = some 0x204 := by
  decide
/-- T185, T186 -/
theorem test_ld_k : look (runWord 0xF30A { base with pc := 0x210, events := [.step ⟨0xFFFF, none, 0⟩] })
      (fun t => (t.pc, t.getV 3, t.keyTaken)) = some (0x210, 0, false) ∧
    look (runWord 0xF30A { base with pc := 0x210, events := [.step ⟨0, some 0xB, 0⟩] })
      (fun t => (t.pc, t.getV 3, t.keyTaken)) = some (0x212, 0xB, true) := by decide
/-- T189 -/
theorem test_ld_vx_dt : look (runWord 0xF407 { base with dt := 42 }) (fun t => (t.getV 4, t.dt)) = some (0x2A, 42) := by decide
/-- T191 -/
theorem test_ld_dt : look (runWord 0xF415 (withRegs [(4, 0x3C)] base)) (fun t => (t.dt, t.st)) = some (60, 0) := by decide
/-- T193 -/
theorem test_ld_st : look (runWord 0xF518 (withRegs [(5, 2)] base)) (fun t => (t.st, t.dt, t.soundReq)) = some (2, 0, false) := by
  decide

/-! ## Fetch, UNKNOWN, events, Init -/

/-- E2: an odd PC is fetched as it stands. -/
theorem test_fetch_odd : look (runWord 0x6107 { base with pc := 0x201 }) (fun t => (t.getV 1, t.pc)) = some (7, 0x203) := by
  decide
/-- E5 -/
theorem test_fetch_fault : look (step { base with pc := 0xFFF }) halted = some (.halted, 2, ⟨0xFFF, 0, 0x1000⟩, 0xFFF) := by
  decide
/-- T41 -/
theorem test_unknown : look (runWord 0xF000 base) (fun t => (t.pc, t.unknownOp, t.status)) =
    some (0x202, some ⟨0xF000, 0x200⟩, .running) := by decide
/-- K2, first Tick, and K4 -/
theorem test_tick : look (step { base with st := 2, events := [.tick] }) (fun t => (t.st, t.soundReq, t.pc)) =
      some (1, true, 0x200) ∧
    look (step { base with dt := 255, st := 255, events := [.tick] }) (fun t => (t.dt, t.st)) = some (254, 254) := by decide
/-- K3: a timer at 0 stays at 0. -/
theorem test_tick_zero : look (step { base with events := [.tick] }) (fun t => (t.dt, t.st, t.soundReq)) =
    some (0, 0, false) := by decide
/-- K7, K9 -/
theorem test_clear : look (step { base with drawReq := true, events := [.clearDrawRequest] }) State.drawReq = some false ∧
    look (step { base with drawReq := true, status := .halted, events := [.clearDrawRequest] }) State.drawReq =
      some true := by decide
/-- N1: the map after Init with an image of six bytes. -/
theorem test_init : ((State.init (Configuration.defaults .schip) defaultFont [0x60, 0x14, 0x30, 0x14, 0x12, 0x04] []).map
    fun s => (Memory.readBlock s.mem 0x200 7, [0x000, 0x004, 0x005, 0x04F, 0x050, 0x1FF, 0xFFF].map (Memory.read s.mem),
      s.pc)) =
    some ([0x60, 0x14, 0x30, 0x14, 0x12, 0x04, 0], [0xF0, 0xF0, 0x20, 0x80, 0, 0, 0], 0x200) := by decide
/-- R41, R27 -/
theorem test_regions_and_ports : [0x04F, 0x050, 0x1FF, 0x200, 0xFFF, 0x1000].map regionOf =
      [some .font, some .reserved, some .reserved, some .program, some .program, none] ∧
    (State.reset.outputs.status, Status.halted.port) = (0, 1) := by decide

/-- R60, R200: a word placed at the reset state, whose tape is empty, is what the very next step runs. -/
theorem test_placed_word_runs_from_reset : look (runWord 0x6014 State.reset) (fun t => (t.getV 0, t.pc, t.events)) =
    some (0x14, 0x202, []) := by decide
/-- R7: events before the next Step are dropped for a placed word, those after it stay. -/
theorem test_placed_word_runs_before_a_tick : look (runWord 0x6014 { base with events := [.tick, .step quiet, .tick] })
    (fun t => (t.getV 0, t.events)) = some (0x14, [.tick]) := by decide

/-! ## Witnesses: states and operands that meet the hypotheses of each statement -/

/-- `base` with a word at PC. -/
def atWord (w : Nat) (s : State) : State := s.withFetchWord 16 w

theorem witness_EncodeOfDecode : decodeWord 0xD45F = some (.drwVxVyN 4 5 0xF) := by decide
theorem witness_DecoderFollowsTable : (⟨18, 0x8006, 0xF00F⟩ : OpcodeRow) ∈ opcodeTable ∧
    (0x8AB6 : Word) &&& 0xF00F = 0x8006 ∧ decodeWord 0x8AB6 = some (.shrVxVy 10 11) := by decide
theorem witness_StepRunsDecodedInstruction : ∃ (s : State) (i : Instr) (inp : StepInputs) (es : List Event),
    s.status = .running ∧ s.pc.toNat ≤ 0xFFE ∧ decodeWord s.fetchWord = some i ∧ s.events = .step inp :: es :=
  ⟨atWord 0x6001 { base with pc := 0xFFE }, .ldVxByte 0 1, quiet, [], rfl, by decide, by decide, rfl⟩
theorem witness_StepRunsDecodedInstruction_next : ∃ (s : State) (i : Instr) (inp : StepInputs),
    s.status = .running ∧ s.pc.toNat ≤ 0xFFE ∧ decodeWord s.fetchWord = some i ∧ s.nextEvent = .step inp :=
  ⟨atWord 0xC0FF State.reset, .rndVxByte 0 0xFF, _, rfl, by decide, by decide, rfl⟩
theorem witness_EventsComeInAnyOrder : ∃ (es rest : List Event) (s t : State), s.events = es ++ rest ∧ t.events = [] :=
  ⟨[.tick, .step quiet, .tick], [.clearDrawRequest], { base with events := [.tick, .step quiet, .tick, .clearDrawRequest] },
    State.reset, rfl, rfl⟩
theorem witness_UnknownWordIsReportedNoOp : ∃ (s : State) (inp : StepInputs),
    s.status = .running ∧ s.pc.toNat ≤ 0xFFE ∧ decodeWord s.fetchWord = none ∧ s.nextEvent = .step inp :=
  ⟨base, quiet, rfl, by decide, by decide, rfl⟩
theorem witness_FetchPastMemoryHalts : ∃ (s : State) (inp : StepInputs),
    s.status = .running ∧ 0xFFE < s.pc.toNat ∧ s.nextEvent = .step inp :=
  ⟨{ base with pc := 0xFFF }, quiet, rfl, by decide, rfl⟩
theorem witness_HaltedCoreIgnoresEvents : ∃ s : State, s.status = .halted :=
  ⟨{ base with status := .halted }, rfl⟩
theorem witness_TickCountsDown : ∃ s : State, s.status = .running ∧ s.nextEvent = .tick :=
  ⟨{ base with dt := 1, st := 1, events := [.tick] }, rfl, rfl⟩
theorem witness_TimersReachZeroAndStay : ∃ (k : Nat) (s : State) (es : List Event),
    s.status = .running ∧ s.events = List.replicate k .tick ++ es :=
  ⟨3, { base with dt := 2, events := [.tick, .tick, .tick] }, [], rfl, rfl⟩
theorem witness_ClearEventsClearTheirFlag : ∃ s t : State, s.status = .running ∧ t.status = .running ∧
    s.nextEvent = .clearDrawRequest ∧ t.nextEvent = .clearSoundRequest :=
  ⟨{ base with drawReq := true, events := [.clearDrawRequest] },
    { base with soundReq := true, events := [.clearSoundRequest] }, rfl, rfl, rfl, rfl⟩
theorem witness_RequestFlagsAreSticky : ∃ s t : State, step s = .next t ∧ s.drawReq = true ∧
    s.nextEvent ≠ .clearDrawRequest ∧ s.soundReq = true ∧ s.nextEvent ≠ .clearSoundRequest :=
  ⟨{ base with drawReq := true, soundReq := true, events := [.tick] }, _, rfl, rfl, by decide, rfl, by decide⟩
theorem witness_StepIgnoresOldPorts : ∃ (s : State) (inp : StepInputs),
    s.status = .running ∧ s.nextEvent = .step inp :=
  ⟨base, quiet, rfl, rfl⟩
theorem witness_PlacedWordRunsNext : ∃ s : State, s.mem.wf = true ∧ s.pc.toNat ≤ 0xFFE :=
  ⟨base, by decide, by decide⟩
theorem witness_CallPushesReturnAddress : ∃ s t : State, s.cfg.stackDepth ≠ some s.stack.length ∧
    t.cfg.stackDepth = some t.stack.length :=
  ⟨base, { base with stack := [0x204], cfg := { base.cfg with stackDepth := some 1 } }, by decide, by decide⟩
theorem witness_RetPopsReturnAddress : ∃ (s t : State) (as : List Word) (a : Word), s.stack = as ++ [a] ∧ t.stack = [] :=
  ⟨{ base with stack := [0x206, 0x310] }, base, [0x206], 0x310, rfl, rfl⟩
theorem witness_RetUndoesCall : ∃ s : State, s.cfg.stackDepth ≠ some s.stack.length := ⟨base, by decide⟩
theorem witness_IntegerArithmeticLaws : ∃ x : Reg, x ≠ 15 := ⟨14, by decide⟩
theorem witness_StoreBcd : ∃ s : State, s.mem.wf = true ∧ s.i.toNat + 2 ≤ 0xFFF :=
  ⟨{ base with i := 0xFFD }, by decide, by decide⟩
theorem witness_StoreRegisters : ∃ (x : Reg) (s : State), s.mem.wf = true ∧ s.i.toNat + x.val ≤ 0xFFF :=
  ⟨15, { base with i := 0xFF0 }, by decide, by decide⟩
theorem witness_LoadRegisters : ∃ (x k : Reg) (s : State), s.i.toNat + x.val ≤ 0xFFF ∧ x < k :=
  ⟨0, 1, { base with i := 0xFFF }, by decide, by decide⟩
theorem witness_DataAccessPastMemoryHalts : ∃ (x : Reg) (n : Nibble) (s : State), 0 < n.toNat ∧
    0xFFF < s.i.toNat + (3 - 1) ∧ 0xFFF < s.i.toNat + (x.val + 1 - 1) ∧ 0xFFF < s.i.toNat + (n.toNat - 1) :=
  ⟨2, 3, { base with i := 0xFFE }, by decide, by decide, by decide, by decide⟩
theorem witness_LoadAfterStoreRestores : ∃ (x : Reg) (s : State), s.mem.wf = true ∧ s.i.toNat + x.val ≤ 0xFFF :=
  ⟨2, { base with i := 0xFFD }, by decide, by decide⟩
theorem witness_StoredCodeIsFetched : ∃ (x : Reg) (s : State), s.mem.wf = true ∧ 1 ≤ x.val ∧ s.i.toNat + x.val ≤ 0xFFF :=
  ⟨1, { base with i := 0xFFE }, by decide, by decide, by decide⟩
theorem witness_DrwFlips_noRows : ∃ (n : Nibble) (s : State), n = 0 ∧ s.i = 0xFFFF :=
  ⟨0, { base with i := 0xFFFF }, rfl, rfl⟩
theorem witness_DrwFlips_lastByte : ∃ (n : Nibble) (s : State), n ≠ 0 ∧ s.i.toNat + (n.toNat - 1) = 0xFFF :=
  ⟨15, { base with i := 0xFF1 }, by decide, by decide⟩
/-- The corner pixel of glyph 0 is under its sprite and on: the collision clause. -/
theorem witness_DrwFlips_collision : ∃ (s : State), underSprite s 0 1 5 0 0 ∧ s.fb.cell (0 + 64 * 0) = true :=
  ⟨withCells [0] base, ⟨0, 0, by decide⟩, by decide⟩
/-- The untouched clause: the last pixel of the screen is under no pixel of glyph 0 drawn at the origin. -/
theorem witness_DrwFlips_untouched : ∃ (s : State) (px py : Nat), px < 64 ∧ py < 32 ∧ ¬ underSprite s 0 1 5 px py :=
  ⟨base, 63, 31, by decide, by decide, fun ⟨_, c, _, hc, _, h⟩ => by
    rw [if_neg (by decide)] at h
    have hx : (base.getV 0).toNat % 64 = 0 := by decide
    omega⟩
/-- The untouched and the flipped clause at the right edge: column 1 of a sprite at column 63 is clipped in LEGACY and falls on
column 0 in XOCHIP. -/
theorem witness_DrwFlips_edge : ∃ (s t : State), ¬ underSprite s 0 1 1 0 0 ∧ underSprite t 0 1 1 0 0 :=
  ⟨withRegs [(0, 63)] base, withRegs [(0, 63)] (baseIn .xochip), fun ⟨_, c, _, hc, _, h⟩ => by
    rw [if_neg (by decide)] at h
    have hx : ((withRegs [(0, 63)] base).getV 0).toNat % 64 = 63 := by decide
    omega, ⟨0, 1, by decide⟩⟩
/-- The VF = 0 clause: glyph 0 has pixels, and none of them is on in an empty framebuffer. -/
theorem witness_DrwFlips_noCollision : ∃ s : State, underSprite s 0 1 5 0 0 ∧
    ∀ px py, px < 64 → py < 32 → underSprite s 0 1 5 px py → s.fb.cell (px + 64 * py) = false :=
  ⟨base, ⟨0, 0, by decide⟩, fun px py _ _ _ => Framebuffer.cell_clear (px + 64 * py)⟩
theorem witness_DrawingTwiceRestores : ∃ (n : Nibble) (s : State), n = 0 ∨ s.i.toNat + (n.toNat - 1) ≤ 0xFFF :=
  ⟨5, base, by decide⟩
theorem witness_KeySkips : ∃ s t u : State,
    ((s.getV 1).toNat ≤ 0xF ∧ s.inputs.keysHeld.getLsbD (s.getV 1).toNat = true) ∧
    ((t.getV 1).toNat ≤ 0xF ∧ t.inputs.keysHeld.getLsbD (t.getV 1).toNat = false) ∧ ¬ (u.getV 1).toNat ≤ 0xF :=
  ⟨withRegs [(1, 15)] { base with inputs := ⟨0x8000, none, 0⟩ }, withRegs [(1, 15)] base, withRegs [(1, 16)] base,
    by decide, by decide, by decide⟩
theorem witness_KeyWaitPolls : ∃ s t : State, s.inputs.keyEvent = some 0xF ∧ t.inputs.keyEvent = none :=
  ⟨{ base with inputs := ⟨0, some 0xF, 0⟩ }, base, rfl, rfl⟩
theorem witness_HangsLeaveTheCoreUnchanged_selfJump : ∃ (s : State) (inp : StepInputs),
    s.status = .running ∧ s.pc.toNat ≤ 0xFFE ∧ s.nextEvent = .step inp ∧ s.atSelfJump = true :=
  ⟨atWord 0x1200 base, quiet, rfl, by decide, rfl, by decide⟩
theorem witness_HangsLeaveTheCoreUnchanged_keyWait : ∃ (s : State) (inp : StepInputs),
    s.status = .running ∧ s.pc.toNat ≤ 0xFFE ∧ s.nextEvent = .step inp ∧
    (∃ x, decodeWord s.fetchWord = some (.ldVxK x)) ∧ inp.keyEvent = none :=
  ⟨atWord 0xF30A base, quiet, rfl, by decide, rfl, ⟨3, by decide⟩, rfl⟩
theorem witness_OnlyListedWriters : ∃ (i : Instr) (s t : State), exec i s = .next t ∧ mayWriteV i 0 = false ∧
    writesI i = false ∧ writesPc i = false ∧ writesMem i = false ∧ writesFb i = false ∧ writesStack i = false :=
  ⟨.ldDtVx 0, base, _, rfl, rfl, rfl, rfl, rfl, rfl, rfl⟩
theorem witness_HaltsArePreciseAndListed : ∃ (i j : Instr) (s t u : State), exec i s = .next t ∧ s.status = .running ∧
    canHalt i = false ∧ exec j s = .next u ∧ u.status = .halted :=
  ⟨.cls, .ret, base, _, _, rfl, rfl, rfl, rfl, rfl⟩
theorem witness_ModeMattersOnlyToQuirkInstructions : ∃ s t : State,
    (∀ inp i, s.nextEvent = .step inp → decodeWord s.fetchWord = some i → consultsMode i = false) ∧ step s = .next t :=
  ⟨atWord 0x6014 base, _, fun _ i _ h => by
    have h' : decodeWord (atWord 0x6014 base).fetchWord = some (.ldVxByte 0 0x14) := by decide
    rw [h'] at h
    cases h
    rfl, rfl⟩
theorem witness_InputsAreReadOnlyByTheirInstructions : ∃ (i : Instr) (s t : State), exec i s = .next t ∧
    readsKeysHeld i = false ∧ readsKeyEvent i = false ∧ readsRnd i = false :=
  ⟨.cls, base, _, rfl, rfl, rfl, rfl⟩
theorem witness_ConfigurationNeverChanges : ∃ s t : State, Host.Core.run Sys2Proof.core 1 s = .next t :=
  ⟨base, _, rfl⟩
theorem witness_InitMeetsInv : ∃ s : State, State.init (Configuration.defaults .xochip) defaultFont [0x12] [] = some s :=
  ⟨{ State.reset with cfg := Configuration.defaults .xochip, mem := initMemory defaultFont [0x12], events := [] },
    if_pos (by decide)⟩
theorem witness_StepKeepsInv : ∃ s t : State, s.Inv ∧ step s = .next t :=
  ⟨{ base with stack := [0x202], pc := 0x10FE }, _, ⟨by decide, by decide, List.forall_mem_singleton.mpr (by decide),
    (fun _ h => nomatch h), (fun h => nomatch h)⟩, rfl⟩
theorem witness_InitLaysOutTheMachine : ∃ (c : Configuration) (font small large : List Byte), c.stackDepth ≠ some 0 ∧
    font.length = 80 ∧ small.length = 3584 ∧ 3584 < large.length :=
  ⟨Configuration.defaults .legacy, defaultFont, List.replicate 3584 0xAA, List.replicate 3585 0xAA, by decide, by decide,
    List.length_replicate, by rw [List.length_replicate]; decide⟩

end Sys2Proof.Tests
end

section
/-! The bytes of a word in memory (spec/20_memory.md R42). -/

namespace Sys2Proof

/-- The high byte weighs 256: the low one is below 2 ^ 8, so joining the two is adding (R42). -/
theorem toNat_wordOfBytes (hi lo : Byte) : (wordOfBytes hi lo).toNat = 256 * hi.toNat + lo.toNat :=
  calc (wordOfBytes hi lo).toNat
      = hi.toNat <<< 8 ||| lo.toNat := BitVec.toNat_append hi lo
    _ = hi.toNat <<< 8 + lo.toNat := (Nat.shiftLeft_add_eq_or_of_lt lo.isLt _).symm
    _ = 256 * hi.toNat + lo.toNat := by rw [Nat.shiftLeft_eq, Nat.mul_comm]

end Sys2Proof

namespace Sys2Proof.Machine

/-- Settles O7: the fetched word is `wordOfBytes` of the bytes at PC and PC + 1. -/
theorem fetchIsBigEndian : Obligations.FetchIsBigEndian :=
  fun s => toNat_wordOfBytes (Memory.read s.mem s.pc.toNat) (Memory.read s.mem (s.pc.toNat + 1))

end Sys2Proof.Machine
end

section
/-! The six fields of a word as numbers (spec/30_encoding.md R61). -/

namespace Sys2Proof

theorem toNat_extractLsb'_word (w : Word) (start len : Nat) :
    (w.extractLsb' start len).toNat = w.toNat / 2 ^ start % 2 ^ len := by
  rw [BitVec.extractLsb'_toNat, Nat.shiftRight_eq_div_pow]

/-- The word is below 2 ^ 16, so the division alone leaves its top nibble. -/
theorem toNat_op (w : Word) : (fieldsOf w).op.toNat = w.toNat / 4096 :=
  (toNat_extractLsb'_word w 12 4).trans (Nat.mod_eq_of_lt (Nat.div_lt_of_lt_mul w.isLt))

theorem val_x (w : Word) : (fieldsOf w).x.val = w.toNat / 256 % 16 :=
  toNat_extractLsb'_word w 8 4

theorem val_y (w : Word) : (fieldsOf w).y.val = w.toNat / 16 % 16 :=
  toNat_extractLsb'_word w 4 4

theorem toNat_n (w : Word) : (fieldsOf w).n.toNat = w.toNat % 16 :=
  BitVec.extractLsb'_toNat ..

theorem toNat_nn (w : Word) : (fieldsOf w).nn.toNat = w.toNat % 256 :=
  BitVec.extractLsb'_toNat ..

theorem toNat_nnn (w : Word) : (fieldsOf w).nnn.toNat = w.toNat % 4096 :=
  BitVec.extractLsb'_toNat ..

end Sys2Proof

namespace Sys2Proof.Machine

/-- Settles O5: each field is its bits of the word as a number, and nn and nnn are put together from the nibbles. -/
theorem fieldsOfWord : Obligations.FieldsOfWord := by
  intro w
  refine ⟨toNat_op w, val_x w, val_y w, toNat_n w, ?_, ?_⟩
  · rw [toNat_nn, val_y, toNat_n]
    omega
  · rw [toNat_nnn, val_x, val_y, toNat_n]
    omega

end Sys2Proof.Machine
end

section
/-! The decoder and the encoder are inverse to each other, and the rows of R65's table are the words that the encoder makes
(spec/30_encoding.md R62, R64, R65). -/

open Sys2Proof.Laws.TableRow

namespace Sys2Proof

/-! ## A word is built again from its fields, in each format -/

theorem wordNNN_fieldsOf {w : Word} {op : Nibble} (hop : (fieldsOf w).op = op) : wordNNN op (fieldsOf w).nnn = w := by
  subst hop
  show (w.extractLsb' 12 4 ++ w.extractLsb' 0 12 : BitVec (4 + 12)) = w
  rw [BitVec.extractLsb'_append_extractLsb'_eq_extractLsb' (by rfl)]
  exact BitVec.extractLsb'_eq_self

theorem wordXNN_fieldsOf {w : Word} {op : Nibble} {nn : Byte} (hop : (fieldsOf w).op = op) (hnn : (fieldsOf w).nn = nn) :
    wordXNN op (fieldsOf w).x nn = w := by
  subst hop hnn
  show (w.extractLsb' 12 4 ++ w.extractLsb' 8 4 ++ w.extractLsb' 0 8 : BitVec (4 + 4 + 8)) = w
  rw [BitVec.extractLsb'_append_extractLsb'_eq_extractLsb' (by rfl),
    BitVec.extractLsb'_append_extractLsb'_eq_extractLsb' (by rfl)]
  exact BitVec.extractLsb'_eq_self

theorem wordXYN_fieldsOf {w : Word} {op n : Nibble} (hop : (fieldsOf w).op = op) (hn : (fieldsOf w).n = n) :
    wordXYN op (fieldsOf w).x (fieldsOf w).y n = w := by
  subst hop hn
  show (w.extractLsb' 12 4 ++ w.extractLsb' 8 4 ++ w.extractLsb' 4 4 ++ w.extractLsb' 0 4 : BitVec (4 + 4 + 4 + 4)) = w
  rw [BitVec.extractLsb'_append_extractLsb'_eq_extractLsb' (by rfl),
    BitVec.extractLsb'_append_extractLsb'_eq_extractLsb' (by rfl),
    BitVec.extractLsb'_append_extractLsb'_eq_extractLsb' (by rfl)]
  exact BitVec.extractLsb'_eq_self

/-! ## The fields that a mask of R65 keeps -/

/-- The bits that the mask `m` has as ones are read the same from the masked word. -/
theorem extractLsb'_of_masked {w m p : Word} {start len : Nat} (h : w &&& m = p)
    (hm : m.extractLsb' start len = BitVec.allOnes len) : w.extractLsb' start len = p.extractLsb' start len := by
  rw [← h, BitVec.extractLsb'_and, hm, BitVec.and_allOnes]

theorem wordNNN_of_masked {w : Word} {op : Nibble} (h : w &&& 0xF000#16 = wordNNN op 0) :
    wordNNN op (fieldsOf w).nnn = w :=
  wordNNN_fieldsOf ((extractLsb'_of_masked h rfl).trans (op_wordNNN op 0))

theorem wordXNN_of_masked_op {w : Word} {op : Nibble} (h : w &&& 0xF000#16 = wordXNN op 0 0) :
    wordXNN op (fieldsOf w).x (fieldsOf w).nn = w :=
  wordXNN_fieldsOf ((extractLsb'_of_masked h rfl).trans (op_wordXNN op 0 0)) rfl

theorem wordXNN_of_masked_nn {w : Word} {op : Nibble} {nn : Byte} (h : w &&& 0xF0FF#16 = wordXNN op 0 nn) :
    wordXNN op (fieldsOf w).x nn = w :=
  wordXNN_fieldsOf ((extractLsb'_of_masked h rfl).trans (op_wordXNN op 0 nn))
    ((extractLsb'_of_masked h rfl).trans (nn_wordXNN op 0 nn))

theorem wordXYN_of_masked_op {w : Word} {op : Nibble} (h : w &&& 0xF000#16 = wordXYN op 0 0 0) :
    wordXYN op (fieldsOf w).x (fieldsOf w).y (fieldsOf w).n = w :=
  wordXYN_fieldsOf ((extractLsb'_of_masked h rfl).trans (op_wordXYN op 0 0 0)) rfl

theorem wordXYN_of_masked_n {w : Word} {op n : Nibble} (h : w &&& 0xF00F#16 = wordXYN op 0 0 n) :
    wordXYN op (fieldsOf w).x (fieldsOf w).y n = w :=
  wordXYN_fieldsOf ((extractLsb'_of_masked h rfl).trans (op_wordXYN op 0 0 n))
    ((extractLsb'_of_masked h rfl).trans (n_wordXYN op 0 0 n))

/-! ## Decoder and encoder -/

theorem decodeWord_encodeWord (i : Instr) : decodeWord (encodeWord i) = some i := by
  cases i
  case cls => rfl
  case ret => rfl
  all_goals simp [decodeWord, encodeWord]

/-- Each branch of R64 that gives an instruction fixes the nibbles that are no operands, so the word is built again from its
fields. -/
theorem encodeWord_of_decodeWord {w : Word} {i : Instr} (h : decodeWord w = some i) : encodeWord i = w := by
  unfold decodeWord at h
  dsimp only at h
  split at h
  next =>
    split at h
    · cases h
      exact .symm ‹_›
    · split at h
      · cases h
        exact .symm ‹_›
      · cases h
  next hop => cases h; exact wordNNN_fieldsOf hop
  next hop => cases h; exact wordNNN_fieldsOf hop
  next hop => cases h; exact wordXNN_fieldsOf hop rfl
  next hop => cases h; exact wordXNN_fieldsOf hop rfl
  next hop => split at h <;> cases h; exact wordXYN_fieldsOf hop ‹_›
  next hop => cases h; exact wordXNN_fieldsOf hop rfl
  next hop => cases h; exact wordXNN_fieldsOf hop rfl
  next hop => split at h <;> cases h <;> exact wordXYN_fieldsOf hop ‹_›
  next hop => split at h <;> cases h; exact wordXYN_fieldsOf hop ‹_›
  next hop => cases h; exact wordNNN_fieldsOf hop
  next hop => cases h; exact wordNNN_fieldsOf hop
  next hop => cases h; exact wordXNN_fieldsOf hop rfl
  next hop => cases h; exact wordXYN_fieldsOf hop rfl
  next hop => split at h <;> cases h <;> exact wordXNN_fieldsOf hop ‹_›
  next =>
    -- The fifteen branches above have taken the other nibbles.
    have hop : (fieldsOf w).op = 0xF#4 := by
      generalize (fieldsOf w).op = op at *
      decide +revert
    split at h <;> cases h <;> exact wordXNN_fieldsOf hop ‹_›

/-! ## The rows of the table -/

/-- The word of every instruction selects the instruction's row: the family `Laws.TableRow`, put together. -/
theorem encodeWord_selects_row (i : Instr) :
    ∃ r ∈ opcodeTable, r.number = rowNumber i ∧ encodeWord i &&& r.mask = r.pattern := by
  have hrow : Statement i := by
    cases i
    exacts [cls, ret, jpAddr _, callAddr _, seVxByte _ _, sneVxByte _ _, seVxVy _ _, sneVxVy _ _, ldVxByte _ _,
      addVxByte _ _, ldVxVy _ _, orVxVy _ _, andVxVy _ _, xorVxVy _ _, addVxVy _ _, subVxVy _ _, subnVxVy _ _, shrVxVy _ _,
      shlVxVy _ _, ldIAddr _, jpV0Addr _, rndVxByte _ _, drwVxVyN _ _ _, skpVx _, sknpVx _, ldVxDt _, ldDtVx _, ldStVx _,
      addIVx _, ldVxK _, ldFVx _, ldBVx _, ldMemVx _, ldVxMem _]
  obtain ⟨r, hr, hnumber, hselected⟩ := hrow
  exact ⟨r, hr, hnumber, eq_of_beq hselected⟩

/-- A word that selects a row is the word of an instruction; the witness is the row's, with the fields of the word as
operands. -/
theorem exists_encodeWord_of_row :
    ∀ r ∈ opcodeTable, ∀ w : Word, w &&& r.mask = r.pattern → ∃ i, encodeWord i = w := by
  simp only [opcodeTable, List.cons_append, List.nil_append, List.forall_mem_cons]
  exact ⟨
    fun _ h => ⟨.cls, (BitVec.and_allOnes.symm.trans h).symm⟩,
    fun _ h => ⟨.ret, (BitVec.and_allOnes.symm.trans h).symm⟩,
    fun _ h => ⟨.jpAddr _, wordNNN_of_masked h⟩,
    fun _ h => ⟨.callAddr _, wordNNN_of_masked h⟩,
    fun _ h => ⟨.seVxByte _ _, wordXNN_of_masked_op h⟩,
    fun _ h => ⟨.sneVxByte _ _, wordXNN_of_masked_op h⟩,
    fun _ h => ⟨.seVxVy _ _, wordXYN_of_masked_n h⟩,
    fun _ h => ⟨.sneVxVy _ _, wordXYN_of_masked_n h⟩,
    fun _ h => ⟨.ldVxByte _ _, wordXNN_of_masked_op h⟩,
    fun _ h => ⟨.addVxByte _ _, wordXNN_of_masked_op h⟩,
    fun _ h => ⟨.ldVxVy _ _, wordXYN_of_masked_n h⟩,
    fun _ h => ⟨.orVxVy _ _, wordXYN_of_masked_n h⟩,
    fun _ h => ⟨.andVxVy _ _, wordXYN_of_masked_n h⟩,
    fun _ h => ⟨.xorVxVy _ _, wordXYN_of_masked_n h⟩,
    fun _ h => ⟨.addVxVy _ _, wordXYN_of_masked_n h⟩,
    fun _ h => ⟨.subVxVy _ _, wordXYN_of_masked_n h⟩,
    fun _ h => ⟨.subnVxVy _ _, wordXYN_of_masked_n h⟩,
    fun _ h => ⟨.shrVxVy _ _, wordXYN_of_masked_n h⟩,
    fun _ h => ⟨.shlVxVy _ _, wordXYN_of_masked_n h⟩,
    fun _ h => ⟨.ldIAddr _, wordNNN_of_masked h⟩,
    fun _ h => ⟨.jpV0Addr _, wordNNN_of_masked h⟩,
    fun _ h => ⟨.rndVxByte _ _, wordXNN_of_masked_op h⟩,
    fun _ h => ⟨.drwVxVyN _ _ _, wordXYN_of_masked_op h⟩,
    fun _ h => ⟨.skpVx _, wordXNN_of_masked_nn h⟩,
    fun _ h => ⟨.sknpVx _, wordXNN_of_masked_nn h⟩,
    fun _ h => ⟨.ldVxDt _, wordXNN_of_masked_nn h⟩,
    fun _ h => ⟨.ldDtVx _, wordXNN_of_masked_nn h⟩,
    fun _ h => ⟨.ldStVx _, wordXNN_of_masked_nn h⟩,
    fun _ h => ⟨.addIVx _, wordXNN_of_masked_nn h⟩,
    fun _ h => ⟨.ldVxK _, wordXNN_of_masked_nn h⟩,
    fun _ h => ⟨.ldFVx _, wordXNN_of_masked_nn h⟩,
    fun _ h => ⟨.ldBVx _, wordXNN_of_masked_nn h⟩,
    fun _ h => ⟨.ldMemVx _, wordXNN_of_masked_nn h⟩,
    fun _ h => ⟨.ldVxMem _, wordXNN_of_masked_nn h⟩,
    List.forall_mem_nil _⟩

/-- No two rows of R65 agree in their patterns on the bits that both masks keep. -/
theorem row_eq_of_patterns_agree : ∀ r ∈ opcodeTable, ∀ r' ∈ opcodeTable,
    r.pattern &&& r'.mask = r'.pattern &&& r.mask → r = r' := by decide

/-- Two patterns that one word has agree on the bits that both masks keep. -/
theorem patterns_agree_of_selected {w m m' p p' : Word} (h : w &&& m = p) (h' : w &&& m' = p') : p &&& m' = p' &&& m := by
  rw [← h, ← h', BitVec.and_assoc, BitVec.and_assoc, BitVec.and_comm m]

theorem decodeWord_eq_none_iff {w : Word} : decodeWord w = none ↔ ∀ r ∈ opcodeTable, w &&& r.mask ≠ r.pattern := by
  constructor
  · intro hnone r hr hw
    obtain ⟨i, rfl⟩ := exists_encodeWord_of_row r hr w hw
    rw [decodeWord_encodeWord] at hnone
    cases hnone
  · intro hrows
    refine Option.eq_none_iff_forall_ne_some.mpr fun i hi => ?_
    obtain ⟨r, hr, -, hw⟩ := encodeWord_selects_row i
    exact hrows r hr (encodeWord_of_decodeWord hi ▸ hw)

end Sys2Proof

namespace Sys2Proof.Machine

/-- Settles O3: decoder and encoder are inverse to each other, and the words that select a row are the encoded ones. -/
theorem decoderFollowsTable : Obligations.DecoderFollowsTable := by
  refine ⟨rfl, ?_, ?_, fun w => decodeWord_eq_none_iff⟩
  · intro r hr r' hr' w hw hw'
    exact row_eq_of_patterns_agree r hr r' hr' (patterns_agree_of_selected hw hw')
  · intro w i hi
    exact encodeWord_of_decodeWord hi ▸ encodeWord_selects_row i

end Sys2Proof.Machine
end

section
/-! A Step on a RUNNING core, from the event taken to the execute phase (spec/30_encoding.md R60), and the UNKNOWN word
(spec/40_flow.md R88). -/

namespace Sys2Proof.Machine

/-- Taking an event writes the tape, the counter and the strobes alone (R8, R25). -/
theorem State.takeEvent_eq (s : State) :
    s.takeEvent =
      { s with events := s.takeEvent.events, draws := s.takeEvent.draws, unknownOp := none, keyTaken := false } := by
  unfold State.takeEvent
  split <;> rfl

/-- A RUNNING core runs the driver's event (R7). -/
theorem step_of_running {s : State} (hrun : s.status = .running) : step s = runEvent s.nextEvent s.takeEvent := by
  obtain ⟨hhalted, -⟩ | ⟨-, hstep⟩ := step_cases s
  · rw [hrun] at hhalted
    cases hhalted
  · exact hstep

/-- A Step with its fetch in range executes the fetched word with PC advanced: neither the event taken nor the inputs reach
the memory and the PC that the fetch reads (R60). -/
theorem step_eq_execWord {s : State} {inp : StepInputs} (hrun : s.status = .running) (hpc : s.pc.toNat ≤ 0xFFE)
    (hevent : s.nextEvent = .step inp) :
    step s = execWord s.fetchWord { s.takeEvent with pc := s.pc + 2, inputs := inp } := by
  have hfetch : ¬ lastFetch < s.takeEvent.pc.toNat := by
    rw [State.takeEvent_pc]
    exact Nat.not_lt.mpr hpc
  calc step s
      = runStep { s.takeEvent with inputs := inp } := by rw [step_of_running hrun, hevent]; rfl
    _ = execWord (State.fetchWord { s.takeEvent with inputs := inp }) (State.advance { s.takeEvent with inputs := inp }) :=
        if_neg hfetch
    _ = execWord s.fetchWord { s.takeEvent with pc := s.pc + 2, inputs := inp } := by
        simp [State.fetchWord, State.advance]

theorem execWord_of_decodeWord_none {w : Word} (s : State) (hw : decodeWord w = none) : execWord w s = execUnknown w s := by
  simp [execWord, hw]

/-- Settles O10: the Step comes to `execUnknown`, which reports the address two below the advanced PC and writes nothing
else. -/
theorem unknownWordIsReportedNoOp : Obligations.UnknownWordIsReportedNoOp := by
  intro s inp hrun hpc hunknown hevent
  have hstep : step s = execUnknown s.fetchWord { s.takeEvent with pc := s.pc + 2, inputs := inp } := by
    rw [step_eq_execWord hrun hpc hevent, execWord_of_decodeWord_none _ hunknown]
  refine ⟨_, hstep, rfl, ?_, ?_⟩
  · simp [State.instrAddr]
  · rw [State.takeEvent_eq s]

end Sys2Proof.Machine
end

section
/-! The jump and the skips (spec/40_flow.md R81, R83 to R86). -/

namespace Sys2Proof.Machine

theorem toNat_zextAddr (nnn : Addr12) : (zextAddr nnn).toNat = nnn.toNat :=
  BitVec.toNat_setWidth_of_le (by decide)

/-- Settles O19: JP writes `zextAddr nnn` to PC. -/
theorem jpSetsPc : Obligations.JpSetsPc :=
  fun nnn s => ⟨{ s with pc := zextAddr nnn }, rfl, toNat_zextAddr nnn, rfl⟩

/-- A skip whose test decides `p` writes PC alone, and moves it exactly when `p` holds. -/
theorem State.skipIf_of_iff (s : State) {c : Bool} {p : Prop} [Decidable p] (h : c = true ↔ p) :
    s.skipIf c = { s with pc := if p then s.pc + 2 else s.pc } := by
  by_cases hp : p
  · rw [h.mpr hp, if_pos hp]
    rfl
  · rw [Bool.eq_false_iff.mpr (mt h.mp hp), if_neg hp]
    rfl

/-- Settles O23: each skip is `skipIf` of the test that decides its condition. -/
theorem skipsTestTheirOperands : Obligations.SkipsTestTheirOperands :=
  fun _ _ _ s =>
    ⟨congrArg Host.Outcome.next (s.skipIf_of_iff beq_iff_eq), congrArg Host.Outcome.next (s.skipIf_of_iff bne_iff_ne),
      congrArg Host.Outcome.next (s.skipIf_of_iff beq_iff_eq), congrArg Host.Outcome.next (s.skipIf_of_iff bne_iff_ne)⟩

end Sys2Proof.Machine
end

section
/-! The registers after one write, and after a result followed by its flag: the loads, ADD Vx,byte, RND and the integer
arithmetic (spec/41_alu.md R100 to R102, R106 to R113). -/

namespace Sys2Proof.Machine

/-! ## One register written -/

/-- `State.getV_setV` with its test in the order that the statements write. -/
theorem State.getV_setV_eq_ite (s : State) (x : Reg) (b : Byte) (k : Reg) :
    (s.setV x b).getV k = if k = x then b else s.getV k :=
  (s.getV_setV x k b).trans (if_congr eq_comm rfl rfl)

theorem State.getV_setV_self (s : State) (x : Reg) (b : Byte) : (s.setV x b).getV x = b :=
  (s.getV_setV_eq_ite x b x).trans (if_pos rfl)

theorem State.getV_setV_of_ne (s : State) {x k : Reg} (b : Byte) (h : k ≠ x) : (s.setV x b).getV k = s.getV k :=
  (s.getV_setV_eq_ite x b k).trans (if_neg h)

/-- Settles O25: each load is one `setV`. -/
theorem registerLoads : Obligations.RegisterLoads :=
  fun x y nn s => ⟨⟨s.setV x nn, rfl, s.getV_setV_eq_ite x nn, rfl⟩,
    ⟨s.setV x (s.getV y), rfl, s.getV_setV_eq_ite x (s.getV y), rfl⟩⟩

/-- Settles O26: one `setV` of the sum, VF being a register like the others. -/
theorem addByteWritesNoFlag : Obligations.AddByteWritesNoFlag := by
  intro x nn s
  refine ⟨s.setV x (s.getV x + nn), rfl, ?_, fun k => s.getV_setV_of_ne _, rfl⟩
  rw [State.getV_setV_self, BitVec.toNat_add]

/-- Settles O30: one `setV` of the masked input. -/
theorem rndMasksTheRandomByte : Obligations.RndMasksTheRandomByte :=
  fun x nn s => ⟨s.setV x (s.inputs.rnd &&& nn), rfl, s.getV_setV_eq_ite x (s.inputs.rnd &&& nn), rfl⟩

/-! ## The flags as numbers -/

theorem flagByte_decide (p : Prop) [Decidable p] : flagByte (decide p) = if p then 1 else 0 :=
  if_congr decide_eq_true_iff rfl rfl

/-- A flag is a bit of the value shifted, as a number. -/
theorem toNat_flagByte_getLsbD (t : Byte) (i : Nat) : (flagByte (t.getLsbD i)).toNat = t.toNat / 2 ^ i % 2 := by
  rw [← Nat.toNat_testBit, BitVec.testBit_toNat]
  cases t.getLsbD i <;> rfl

theorem toNat_shrFlag (t : Byte) : (shrFlag t).toNat = t.toNat % 2 := by
  rw [shrFlag, toNat_flagByte_getLsbD, Nat.pow_zero, Nat.div_one]

/-- Bit 7 is the top bit of a byte, so the division alone leaves it. -/
theorem toNat_shlFlag (t : Byte) : (shlFlag t).toNat = t.toNat / 128 :=
  (toNat_flagByte_getLsbD t 7).trans (Nat.mod_eq_of_lt (Nat.div_lt_of_lt_mul t.isLt))

/-! ## The results as numbers -/

/-- `BitVec.toNat_sub` with the minuend before the subtrahend. -/
theorem toNat_sub_byte (a b : Byte) : (a - b).toNat = (256 + a.toNat - b.toNat) % 256 := by
  have hb : b.toNat < 256 := b.isLt
  rw [BitVec.toNat_sub]
  omega

theorem toNat_shiftRight_one (t : Byte) : (t >>> 1).toNat = t.toNat / 2 := by
  rw [BitVec.toNat_ushiftRight, Nat.shiftRight_eq_div_pow, Nat.pow_one]

theorem toNat_shiftLeft_one (t : Byte) : (t <<< 1).toNat = 2 * t.toNat % 256 := by
  rw [BitVec.toNat_shiftLeft, Nat.shiftLeft_eq, Nat.pow_one, Nat.mul_comm]

/-- The value shifted is V[x] in SCHIP alone (R161). -/
theorem State.shiftSource_eq (s : State) (x y : Reg) :
    s.shiftSource x y = if s.cfg.mode = .schip then s.getV x else s.getV y := by
  unfold State.shiftSource qShiftUsesVy
  cases s.cfg.mode <;> rfl

/-! ## The result, then its flag -/

/-- What `setWithFlag` leaves when the result is the number `n` and the flag satisfies `p`: the flag for every destination,
the result for one other than VF (R112, D10). -/
theorem exists_next_setWithFlag {o : Outcome} {s : State} {x : Reg} {r f : Byte} {n : Nat} (p : Byte → Prop)
    (ho : o = .next (s.setWithFlag x r f)) (hr : r.toNat = n) (hf : p f) :
    ∃ t, o = .next t ∧ (x ≠ 15 → (t.getV x).toNat = n) ∧ p (t.getV 15) ∧
      (∀ k, k ≠ x → k ≠ 15 → t.getV k = s.getV k) ∧ t = { s with v := t.v } := by
  refine ⟨s.setWithFlag x r f, ho, fun hx => ?_, ?_, fun k hkx hkf => ?_, rfl⟩
  · simp [vf, hx, hr]
  · simpa [vf] using hf
  · simp [vf, hkf, hkx.symm]

/-- Settles O28: each of the five flag writers is `setWithFlag` of its result and flag, and the two other additions write
only V[x] and only I. -/
theorem integerArithmeticLaws : Obligations.IntegerArithmeticLaws := by
  intro x y nn s
  refine ⟨?add, ?sub, ?subn, ?shifts, ?addByte, ?addI⟩
  case add => exact exists_next_setWithFlag (· = _) rfl (BitVec.toNat_add _ _) (flagByte_decide _)
  case sub => exact exists_next_setWithFlag (· = _) rfl (toNat_sub_byte _ _) (flagByte_decide _)
  case subn => exact exists_next_setWithFlag (· = _) rfl (toNat_sub_byte _ _) (flagByte_decide _)
  case shifts =>
    rintro _ rfl
    rw [← s.shiftSource_eq x y]
    exact ⟨exists_next_setWithFlag (·.toNat = _) rfl (toNat_shiftRight_one _) (toNat_shrFlag _),
      exists_next_setWithFlag (·.toNat = _) rfl (toNat_shiftLeft_one _) (toNat_shlFlag _)⟩
  case addByte => exact fun hx => ⟨s.setV x (s.getV x + nn), rfl, s.getV_setV_of_ne _ hx.symm⟩
  case addI => exact ⟨{ s with i := s.i + zextByte (s.getV x) }, rfl, rfl⟩

end Sys2Proof.Machine
end

section
/-! The index register loaded (spec/42_index_memory.md R120). -/

namespace Sys2Proof.Machine

/-- Settles O31: LD I writes `zextAddr nnn` to I. -/
theorem loadIndex : Obligations.LoadIndex :=
  fun nnn s => ⟨{ s with i := zextAddr nnn }, rfl, toNat_zextAddr nnn, rfl⟩

end Sys2Proof.Machine
end

section
/-! The screen cleared (spec/43_display.md R140). -/

namespace Sys2Proof.Machine

/-- Settles O39: CLS writes `Framebuffer.clear` and draw_req, and every cell of a cleared framebuffer is off. -/
theorem clsClearsEveryCell : Obligations.ClsClearsEveryCell :=
  fun s => ⟨{ s with fb := Framebuffer.clear, drawReq := true }, rfl, fun k _ => Framebuffer.cell_clear k, rfl, rfl⟩

end Sys2Proof.Machine
end

section
/-! The key wait and the timer moves (spec/44_keys_timers.md R152 to R155). -/

namespace Sys2Proof.Machine

/-- A byte holds every key number. -/
theorem toNat_keyByte (key : Key) : (keyByte key).toNat = key.val :=
  (BitVec.toNat_ofNat key.val 8).trans (Nat.mod_eq_of_lt (key.isLt.trans (by decide)))

theorem execLdVxK_of_some {s : State} {key : Key} (x : Reg) (hkey : s.inputs.keyEvent = some key) :
    execLdVxK x s = .next { s.setV x (keyByte key) with keyTaken := true } := by
  simp only [execLdVxK, hkey]

theorem execLdVxK_of_none {s : State} (x : Reg) (hkey : s.inputs.keyEvent = none) :
    execLdVxK x s = .next { s with pc := s.pc - 2 } := by
  simp only [execLdVxK, hkey]

/-- Settles O43: with a key event one `setV` and the strobe, without one PC alone. -/
theorem keyWaitPolls : Obligations.KeyWaitPolls := by
  intro x s
  refine ⟨fun key hkey => ⟨_, execLdVxK_of_some x hkey, ?_, fun k => s.getV_setV_of_ne _, rfl, rfl⟩,
    execLdVxK_of_none x⟩
  exact (congrArg BitVec.toNat (s.getV_setV_self x (keyByte key))).trans (toNat_keyByte key)

/-- Settles O44: LD Vx,DT is one `setV` of the delay timer, and the two other moves are one timer written. -/
theorem timerMoves : Obligations.TimerMoves :=
  fun x s => ⟨⟨s.setV x s.dt, rfl, s.getV_setV_eq_ite x s.dt, rfl⟩, rfl, rfl⟩

end Sys2Proof.Machine
end

section
/-! Decoder and encoder as the statements have them: bytes decoded, the words without an instruction, and sample words
(spec/30_encoding.md R61 to R66). -/

namespace Sys2Proof.Machine

/-- Settles O1: the two bytes of the encoding join to the encoded word, which the decoder answers the instruction for. -/
theorem decodeOfEncode : Obligations.DecodeOfEncode := by
  intro i rest
  refine ⟨?_, rfl⟩
  show decode (highByte (encodeWord i) :: lowByte (encodeWord i) :: rest) = .ok (i, rest)
  simp only [decode, wordOfBytes_highByte_lowByte, decodeWord_encodeWord]

/-- Settles O2: each branch of the decoder builds the word again from its fields. -/
theorem encodeOfDecode : Obligations.EncodeOfDecode :=
  fun _ _ => encodeWord_of_decodeWord

/-- Settles O4: in each family, the nibbles that no branch of the decoder names; the numbers of the statement are those of the
fields. -/
theorem unknownWordSets : Obligations.UnknownWordSets := by
  intro w
  rw [← toNat_op, ← toNat_n, ← toNat_nn]
  unfold decodeWord
  dsimp only
  generalize (fieldsOf w).op = op, (fieldsOf w).n = n, (fieldsOf w).nn = nn
  split
  case h_1 => -- family 0
    by_cases hcls : w = 0x00E0#16
    · simp [hcls]
    · by_cases hret : w = 0x00EE#16 <;> simp [hcls, hret]
  case h_9 => -- family 8
    split
    case h_10 => simp; decide +revert
    all_goals simp
  case h_15 => -- family E
    split <;> simp_all [BitVec.toNat_eq]
  case h_16 => -- family F, the fifteen branches before having taken the other nibbles
    obtain rfl : op = 0xF#4 := by decide +revert
    split <;> simp_all [BitVec.toNat_eq]
  all_goals simp [BitVec.toNat_eq]

/-- Settles O6: the decoder computes on literal words. -/
theorem sampleWordsDecode : Obligations.SampleWordsDecode := by
  unfold Obligations.SampleWordsDecode
  decide

end Sys2Proof.Machine
end

section
/-! What an instruction can do, said once: it completes and writes what spec/10_state.md R32 lists for it, or it is one of the six
that can raise a fatal condition and writes the halt record alone (spec/60_exceptions.md R171 to R175). -/

open Sys2Proof.Claims

namespace Sys2Proof.Machine

/-- The instruction `i` has completed from `s` in `t`: `frame` names all that any instruction writes, and each further field what
its listed writers can leave there (0x10FE is 0xFFF + 0xFF, the farthest target of JP V0). A field that an instruction leaves
alone is proved by its default. -/
structure Completes (i : Instr) (s t : State) : Prop where
  frame : t = { s with
    v := t.v, i := t.i, pc := t.pc, stack := t.stack, mem := t.mem, fb := t.fb, dt := t.dt, st := t.st
    drawReq := t.drawReq, keyTaken := t.keyTaken } := by rfl
  registers : ∀ k, mayWriteV i k = false → t.getV k = s.getV k := by exact fun _ _ => rfl
  index : writesI i = false → t.i = s.i := by exact fun _ => rfl
  pc : t.pc = s.pc ∨ writesPc i = true ∧
    (t.pc = s.pc + 2 ∨ t.pc = s.pc - 2 ∨ t.pc.toNat ≤ 0x10FE ∨ t.pc ∈ s.stack) := by exact .inl rfl
  stack : t.stack = s.stack ∨ writesStack i = true ∧
    (s.stackFull = false ∧ t.stack = s.stack ++ [s.pc] ∨ ∃ a, s.stack = t.stack ++ [a]) := by exact .inl rfl
  memory : t.mem = s.mem ∨ writesMem i = true ∧ (s.mem.wf = true → t.mem.wf = true) := by exact .inl rfl
  screen : t.fb = s.fb ∧ t.drawReq = s.drawReq ∨ writesFb i = true ∧ t.drawReq = true := by exact .inl ⟨rfl, rfl⟩
  delay : (∀ x, i ≠ .ldDtVx x) → t.dt = s.dt := by exact fun _ => rfl
  sound : (∀ x, i ≠ .ldStVx x) → t.st = s.st := by exact fun _ => rfl
  keyTaken : (∀ x, i ≠ .ldVxK x) → t.keyTaken = s.keyTaken := by exact fun _ => rfl

/-- What an answer of the instruction `i` from `s` can be. -/
inductive Effect (i : Instr) (s : State) : State → Prop where
  | completes {t : State} : Completes i s t → Effect i s t
  | halts (c : HaltCause) (addr : BitVec 17) :
      canHalt i = true → Effect i s (s.halt c ⟨s.instrAddr, encodeWord i, addr⟩)

/-! ## The shared operations complete -/

section
variable {i : Instr} {s : State}

theorem completes_setV {x : Reg} (b : Byte) (h : ∀ k, mayWriteV i k = false → k ≠ x) : Completes i s (s.setV x b) where
  registers k hk := s.getV_setV_of_ne b (h k hk)

theorem completes_setWithFlag {x : Reg} (r f : Byte) (h : ∀ k, mayWriteV i k = false → k ≠ x ∧ k ≠ 15) :
    Completes i s (s.setWithFlag x r f) where
  registers k hk := by
    obtain ⟨hx, hf⟩ := h k hk
    simp [vf, hf, hx.symm]

theorem completes_setLogic {x : Reg} (r : Byte) (h : ∀ k, mayWriteV i k = false → k ≠ x ∧ k ≠ 15) :
    Completes i s (s.setLogic x r) := by
  unfold State.setLogic
  split
  · exact completes_setWithFlag r 0 h
  · exact completes_setV r fun k hk => (h k hk).1

theorem completes_skipIf (c : Bool) (h : writesPc i = true) : Completes i s (s.skipIf c) := by
  cases c
  · exact {}
  · exact { pc := .inr ⟨h, .inl rfl⟩ }

/-- A data access completes when the instruction's effect does, and else raises DataOutOfBounds (R47). -/
theorem withAccess_answers {len : Nat} {t : State} (hi : canHalt i = true)
    (h : inBounds s.i.toNat len = true → Completes i s t) :
    ∃ u, withAccess (encodeWord i) len s t = .next u ∧ Effect i s u := by
  obtain ⟨hin, hnext⟩ | ⟨-, hraise⟩ := withAccess_cases (encodeWord i) len s t
  · exact ⟨t, hnext, .completes (h hin)⟩
  · exact ⟨_, hraise, .halts .dataOutOfBounds _ hi⟩

/-- The stores of a block in bounds keep the canonical form. -/
theorem wf_storeAtI {bs : List Byte} (hin : inBounds s.i.toNat bs.length = true) (hwf : s.mem.wf = true) :
    (s.storeAtI bs).mem.wf = true := by
  obtain hlen | hle := (inBounds_iff _ _).mp hin
  · rw [List.length_eq_zero_iff.mp hlen]
    exact hwf
  · exact Memory.wf_writeBlock hwf bs hle

end

theorem toNat_zextByte (b : Byte) : (zextByte b).toNat = b.toNat :=
  BitVec.toNat_setWidth_of_le (by decide)

theorem toNat_zextAddr_add_zextByte (nnn : Addr12) (b : Byte) :
    (zextAddr nnn + zextByte b).toNat = nnn.toNat + b.toNat := by
  have hnnn : nnn.toNat < 4096 := nnn.isLt
  have hb : b.toNat < 256 := b.isLt
  rw [BitVec.toNat_add, toNat_zextAddr, toNat_zextByte]
  omega

/-- A full stack has exactly a finite STACK_DEPTH of entries. -/
theorem State.stackFull_iff (s : State) : s.stackFull = true ↔ s.cfg.stackDepth = some s.stack.length :=
  beq_iff_eq

/-! ## Every instruction -/

theorem execRet_of_nil {s : State} (hstack : s.stack = []) :
    execRet s = .next (s.halt .stackUnderflow ⟨s.instrAddr, encodeWord .ret, 0⟩) := by
  simp only [execRet, s.pop_nil hstack, raise]

theorem execRet_of_concat {s : State} {as : List Word} {a : Word} (hstack : s.stack = as ++ [a]) :
    execRet s = .next { s with stack := as, pc := a } := by
  simp only [execRet, s.pop_concat as a hstack]

theorem execCallAddr_of_full {s : State} (nnn : Addr12) (hfull : s.stackFull = true) :
    execCallAddr nnn s =
      .next (s.halt .stackOverflow ⟨s.instrAddr, encodeWord (.callAddr nnn), s.pc.setWidth 17⟩) :=
  if_pos hfull

theorem execCallAddr_of_not_full {s : State} (nnn : Addr12) (hfull : ¬ s.stackFull = true) :
    execCallAddr nnn s = .next { s.push s.pc with pc := zextAddr nnn } :=
  if_neg hfull

theorem execRet_answers (s : State) : ∃ t, execRet s = .next t ∧ Effect .ret s t := by
  obtain ⟨hstack, -⟩ | ⟨as, a, hstack, -⟩ := s.pop_cases
  · exact ⟨_, execRet_of_nil hstack, .halts .stackUnderflow 0 rfl⟩
  · have hmem : a ∈ s.stack := hstack ▸ List.mem_concat_self
    exact ⟨_, execRet_of_concat hstack, .completes
      { pc := .inr ⟨rfl, .inr (.inr (.inr hmem))⟩, stack := .inr ⟨rfl, .inr ⟨a, hstack⟩⟩ }⟩

theorem execCallAddr_answers (nnn : Addr12) (s : State) :
    ∃ t, execCallAddr nnn s = .next t ∧ Effect (.callAddr nnn) s t := by
  by_cases hfull : s.stackFull = true
  · exact ⟨_, execCallAddr_of_full nnn hfull, .halts .stackOverflow (s.pc.setWidth 17) rfl⟩
  · have htarget : (zextAddr nnn).toNat ≤ 0x10FE :=
      (toNat_zextAddr nnn).trans_le (nnn.isLt.le.trans (by decide))
    exact ⟨_, execCallAddr_of_not_full nnn hfull, .completes
      { pc := .inr ⟨rfl, .inr (.inr (.inl htarget))⟩
        stack := .inr ⟨rfl, .inl ⟨Bool.eq_false_iff.mpr hfull, rfl⟩⟩ }⟩

theorem execLdVxK_answers (x : Reg) (s : State) : ∃ t, execLdVxK x s = .next t ∧ Effect (.ldVxK x) s t := by
  cases hkey : s.inputs.keyEvent with
  | none => exact ⟨_, execLdVxK_of_none x hkey, .completes { pc := .inr ⟨rfl, .inr (.inl rfl)⟩ }⟩
  | some key =>
    refine ⟨_, execLdVxK_of_some x hkey, .completes { registers := fun k hk => ?_, keyTaken := fun h => absurd rfl (h x) }⟩
    exact s.getV_setV_of_ne _ (by simpa [mayWriteV] using hk)

/-- Every instruction answers a next state, and what it can be. -/
theorem exec_answers (i : Instr) (s : State) : ∃ t, exec i s = .next t ∧ Effect i s t := by
  cases i with
  | cls => exact ⟨_, rfl, .completes { screen := .inr ⟨rfl, rfl⟩ }⟩
  | ret => exact execRet_answers s
  | jpAddr nnn =>
    refine ⟨_, rfl, .completes { pc := .inr ⟨rfl, .inr (.inr (.inl ?_))⟩ }⟩
    exact (toNat_zextAddr nnn).trans_le (nnn.isLt.le.trans (by decide))
  | callAddr nnn => exact execCallAddr_answers nnn s
  | seVxByte x nn => exact ⟨_, rfl, .completes (completes_skipIf _ rfl)⟩
  | sneVxByte x nn => exact ⟨_, rfl, .completes (completes_skipIf _ rfl)⟩
  | seVxVy x y => exact ⟨_, rfl, .completes (completes_skipIf _ rfl)⟩
  | sneVxVy x y => exact ⟨_, rfl, .completes (completes_skipIf _ rfl)⟩
  | ldVxByte x nn => exact ⟨_, rfl, .completes (completes_setV _ (by simp [mayWriteV]))⟩
  | addVxByte x nn => exact ⟨_, rfl, .completes (completes_setV _ (by simp [mayWriteV]))⟩
  | ldVxVy x y => exact ⟨_, rfl, .completes (completes_setV _ (by simp [mayWriteV]))⟩
  | orVxVy x y => exact ⟨_, rfl, .completes (completes_setLogic _ (by simp [mayWriteV]))⟩
  | andVxVy x y => exact ⟨_, rfl, .completes (completes_setLogic _ (by simp [mayWriteV]))⟩
  | xorVxVy x y => exact ⟨_, rfl, .completes (completes_setLogic _ (by simp [mayWriteV]))⟩
  | addVxVy x y => exact ⟨_, rfl, .completes (completes_setWithFlag _ _ (by simp [mayWriteV]))⟩
  | subVxVy x y => exact ⟨_, rfl, .completes (completes_setWithFlag _ _ (by simp [mayWriteV]))⟩
  | subnVxVy x y => exact ⟨_, rfl, .completes (completes_setWithFlag _ _ (by simp [mayWriteV]))⟩
  | shrVxVy x y => exact ⟨_, rfl, .completes (completes_setWithFlag _ _ (by simp [mayWriteV]))⟩
  | shlVxVy x y => exact ⟨_, rfl, .completes (completes_setWithFlag _ _ (by simp [mayWriteV]))⟩
  | ldIAddr nnn => exact ⟨_, rfl, .completes { index := nofun }⟩
  | jpV0Addr nnn =>
    refine ⟨_, rfl, .completes { pc := .inr ⟨rfl, .inr (.inr (.inl ?_))⟩ }⟩
    have hsum := toNat_zextAddr_add_zextByte nnn (s.jumpOffset nnn)
    have hnnn : nnn.toNat < 4096 := nnn.isLt
    have hb : (s.jumpOffset nnn).toNat < 256 := (s.jumpOffset nnn).isLt
    show (zextAddr nnn + zextByte (s.jumpOffset nnn)).toNat ≤ 0x10FE
    omega
  | rndVxByte x nn => exact ⟨_, rfl, .completes (completes_setV _ (by simp [mayWriteV]))⟩
  | drwVxVyN x y n =>
    exact withAccess_answers rfl fun _ =>
      { registers := fun k hk => State.getV_setV_of_ne _ _ (by simpa [mayWriteV, vf] using hk)
        screen := .inr ⟨rfl, rfl⟩ }
  | skpVx x => exact ⟨_, rfl, .completes (completes_skipIf _ rfl)⟩
  | sknpVx x => exact ⟨_, rfl, .completes (completes_skipIf _ rfl)⟩
  | ldVxDt x => exact ⟨_, rfl, .completes (completes_setV _ (by simp [mayWriteV]))⟩
  | ldDtVx x => exact ⟨_, rfl, .completes { delay := fun h => absurd rfl (h x) }⟩
  | ldStVx x => exact ⟨_, rfl, .completes { sound := fun h => absurd rfl (h x) }⟩
  | addIVx x => exact ⟨_, rfl, .completes { index := nofun }⟩
  | ldVxK x => exact execLdVxK_answers x s
  | ldFVx x => exact ⟨_, rfl, .completes { index := nofun }⟩
  | ldBVx x => exact withAccess_answers rfl fun hin => { memory := .inr ⟨rfl, wf_storeAtI hin⟩ }
  | ldMemVx x =>
    exact withAccess_answers rfl fun hin =>
      { index := nofun, memory := .inr ⟨rfl, wf_storeAtI ((s.length_regsUpTo x).symm ▸ hin)⟩ }
  | ldVxMem x =>
    refine withAccess_answers rfl fun _ => { index := nofun, registers := fun k hk => ?_ }
    exact (getV_loadBlock s x k).trans (if_neg (of_decide_eq_false hk))

theorem effect_of_exec {i : Instr} {s t : State} (h : exec i s = .next t) : Effect i s t := by
  obtain ⟨u, hu, heffect⟩ := exec_answers i s
  cases hu.symm.trans h
  exact heffect

end Sys2Proof.Machine
end

section
/-! One step of the machine, said once: the event of the driver and what it leaves (spec/00_scope.md R7, spec/30_encoding.md R60,
spec/60_exceptions.md R176, R183, R185). -/

namespace Sys2Proof.Machine

/-! ## The step, event by event -/

theorem step_of_halted {s : State} (hhalted : s.status = .halted) : step s = .next s.takeEvent := by
  obtain ⟨-, hstep⟩ | ⟨hrun, -⟩ := step_cases s
  · exact hstep
  · rw [hhalted] at hrun
    cases hrun

section
variable {s : State} (hrun : s.status = .running)
include hrun

theorem step_of_tick (hevent : s.nextEvent = .tick) : step s = .next s.takeEvent.tick := by
  rw [step_of_running hrun, hevent]
  rfl

theorem step_of_clearDrawRequest (hevent : s.nextEvent = .clearDrawRequest) :
    step s = .next s.takeEvent.clearDrawRequest := by
  rw [step_of_running hrun, hevent]
  rfl

theorem step_of_clearSoundRequest (hevent : s.nextEvent = .clearSoundRequest) :
    step s = .next s.takeEvent.clearSoundRequest := by
  rw [step_of_running hrun, hevent]
  rfl

theorem step_eq_runStep {inp : StepInputs} (hevent : s.nextEvent = .step inp) :
    step s = runStep { s.takeEvent with inputs := inp } := by
  rw [step_of_running hrun, hevent]
  rfl

/-- A fetch past the memory raises FetchOutOfBounds with PC as it was (R44). -/
theorem step_of_fetch_past_memory {inp : StepInputs} (hpc : 0xFFE < s.pc.toNat) (hevent : s.nextEvent = .step inp) :
    step s = .next (State.halt { s.takeEvent with inputs := inp } .fetchOutOfBounds
      ⟨s.pc, 0, lowestOutOfRange s.pc.toNat⟩) := by
  have hfetch : lastFetch < s.takeEvent.pc.toNat := by
    rw [State.takeEvent_pc]
    exact hpc
  calc step s
      = runStep { s.takeEvent with inputs := inp } := step_eq_runStep hrun hevent
    _ = raiseFetch { s.takeEvent with inputs := inp } := if_pos hfetch
    _ = _ := by simp only [raiseFetch, State.takeEvent_pc]

end

/-- The state that the execute phase of a Step with the inputs `inp` begins in (R60). -/
def State.atExecute (s : State) (inp : StepInputs) : State :=
  { s.takeEvent with pc := s.pc + 2, inputs := inp }

theorem State.atExecute_eq (s : State) (inp : StepInputs) :
    s.atExecute inp =
      { s with
        pc := s.pc + 2, inputs := inp, events := s.takeEvent.events, draws := s.takeEvent.draws
        unknownOp := none, keyTaken := false } := by
  rw [State.atExecute, State.takeEvent_eq s]

theorem step_eq_exec {s : State} {inp : StepInputs} {i : Instr} (hrun : s.status = .running) (hpc : s.pc.toNat ≤ 0xFFE)
    (hevent : s.nextEvent = .step inp) (hdecode : decodeWord s.fetchWord = some i) :
    step s = exec i (s.atExecute inp) := by
  rw [step_eq_execWord hrun hpc hevent, execWord, hdecode]
  rfl

theorem step_eq_execUnknown {s : State} {inp : StepInputs} (hrun : s.status = .running) (hpc : s.pc.toNat ≤ 0xFFE)
    (hevent : s.nextEvent = .step inp) (hunknown : decodeWord s.fetchWord = none) :
    step s = .next { s.atExecute inp with unknownOp := some ⟨s.fetchWord, (s.atExecute inp).instrAddr⟩ } := by
  rw [step_eq_execWord hrun hpc hevent, execWord_of_decodeWord_none _ hunknown]
  rfl

/-! ## What a step can do -/

/-- What a step from `s` can leave. -/
inductive StepEffect (s : State) : State → Prop where
  | ignored : s.status = .halted → StepEffect s s.takeEvent
  | ticked : s.nextEvent = .tick → StepEffect s s.takeEvent.tick
  | drawRequestCleared : s.nextEvent = .clearDrawRequest → StepEffect s s.takeEvent.clearDrawRequest
  | soundRequestCleared : s.nextEvent = .clearSoundRequest → StepEffect s s.takeEvent.clearSoundRequest
  | fetchFault (inp : StepInputs) (info : HaltInfo) :
      StepEffect s (State.halt { s.takeEvent with inputs := inp } .fetchOutOfBounds info)
  | unknown (inp : StepInputs) (report : UnknownReport) :
      s.pc.toNat ≤ 0xFFE → StepEffect s { s.atExecute inp with unknownOp := some report }
  | executed {inp : StepInputs} {i : Instr} {t : State} :
      s.pc.toNat ≤ 0xFFE → Effect i (s.atExecute inp) t → StepEffect s t

theorem step_answers (s : State) : ∃ t, step s = .next t ∧ StepEffect s t := by
  cases hstatus : s.status with
  | halted => exact ⟨_, step_of_halted hstatus, .ignored hstatus⟩
  | running =>
    cases hevent : s.nextEvent with
    | tick => exact ⟨_, step_of_tick hstatus hevent, .ticked hevent⟩
    | clearDrawRequest => exact ⟨_, step_of_clearDrawRequest hstatus hevent, .drawRequestCleared hevent⟩
    | clearSoundRequest => exact ⟨_, step_of_clearSoundRequest hstatus hevent, .soundRequestCleared hevent⟩
    | step inp =>
      obtain hpc | hpc := Nat.lt_or_ge 0xFFE s.pc.toNat
      · exact ⟨_, step_of_fetch_past_memory hstatus hpc hevent, .fetchFault inp _⟩
      · cases hdecode : decodeWord s.fetchWord with
        | none => exact ⟨_, step_eq_execUnknown hstatus hpc hevent hdecode, .unknown inp _ hpc⟩
        | some i =>
          obtain ⟨t, hexec, heffect⟩ := exec_answers i (s.atExecute inp)
          exact ⟨t, (step_eq_exec hstatus hpc hevent hdecode).trans hexec, .executed hpc heffect⟩

theorem stepEffect_of_step {s t : State} (h : step s = .next t) : StepEffect s t := by
  obtain ⟨u, hu, heffect⟩ := step_answers s
  cases hu.symm.trans h
  exact heffect

end Sys2Proof.Machine
end

section
/-! The invariant of the machine (spec/10_state.md R14, R15, spec/20_memory.md R40, spec/60_exceptions.md R171): every launch
meets it, every step keeps it. -/

namespace Sys2Proof.Machine

theorem code_pos_and_le (c : HaltCause) : 1 ≤ c.code.toNat ∧ c.code.toNat ≤ 4 := by
  cases c <;> decide

section
variable {s : State}

theorem State.Inv.takeEvent (h : s.Inv) : s.takeEvent.Inv := by
  rw [s.takeEvent_eq]
  exact ⟨h.memory, h.pcRange, h.stackRange, h.stackDepth, h.haltCause⟩

theorem State.Inv.halt (h : s.Inv) (c : HaltCause) (info : HaltInfo) : (s.halt c info).Inv :=
  ⟨h.memory, h.pcRange, h.stackRange, h.stackDepth, fun _ => code_pos_and_le c⟩

/-- In the execute phase PC is the address of a word that was fetched, plus 2. -/
theorem State.toNat_atExecute_pc (hpc : s.pc.toNat ≤ 0xFFE) (inp : StepInputs) :
    (s.atExecute inp).pc.toNat = s.pc.toNat + 2 := by
  show (s.pc + 2).toNat = s.pc.toNat + 2
  bv_omega

theorem State.Inv.atExecute (h : s.Inv) (hpc : s.pc.toNat ≤ 0xFFE) (inp : StepInputs) : (s.atExecute inp).Inv where
  memory := h.takeEvent.memory
  pcRange := by
    rw [toNat_atExecute_pc hpc]
    omega
  stackRange := h.takeEvent.stackRange
  stackDepth := h.takeEvent.stackDepth
  haltCause := h.takeEvent.haltCause

end

section
variable {i : Instr} {s t : State} (hc : Completes i s t)
include hc

theorem Completes.cfg_eq : t.cfg = s.cfg := by rw [hc.frame]
theorem Completes.status_eq : t.status = s.status := by rw [hc.frame]
theorem Completes.haltCause_eq : t.haltCause = s.haltCause := by rw [hc.frame]

/-- PC ends as it was, 2 on, 2 back, at most 0xFFF + 0xFF, or at an address that a CALL pushed (R14). -/
theorem Completes.pcRange (h : s.Inv) (hlo : 2 ≤ s.pc.toNat) (hhi : s.pc.toNat ≤ 0x1000) : t.pc.toNat ≤ 0x10FE := by
  obtain hpc | ⟨-, hpc | hpc | hpc | hpc⟩ := hc.pc
  · rw [hpc]
    exact h.pcRange
  · rw [hpc]
    bv_omega
  · rw [hpc]
    bv_omega
  · exact hpc
  · exact (h.stackRange _ hpc).2.trans (by decide)

/-- The stack ends as it was, with PC pushed, or without its newest entry (R15). -/
theorem Completes.stackRange (h : s.Inv) (hlo : 2 ≤ s.pc.toNat) (hhi : s.pc.toNat ≤ 0x1000) :
    ∀ a ∈ t.stack, 2 ≤ a.toNat ∧ a.toNat ≤ 0x1000 := by
  intro a ha
  obtain hstack | ⟨-, ⟨-, hstack⟩ | ⟨b, hstack⟩⟩ := hc.stack
  · exact h.stackRange a (hstack ▸ ha)
  · rw [hstack, List.mem_append, List.mem_singleton] at ha
    obtain ha | rfl := ha
    · exact h.stackRange a ha
    · exact ⟨hlo, hhi⟩
  · exact h.stackRange a (hstack ▸ List.mem_append_left _ ha)

/-- A push happens only below a finite STACK_DEPTH (R15, R82). -/
theorem Completes.stackDepth (h : s.Inv) : ∀ d, t.cfg.stackDepth = some d → t.stack.length ≤ d := by
  intro d hd
  rw [hc.cfg_eq] at hd
  have hlen : s.stack.length ≤ d := h.stackDepth d hd
  obtain hstack | ⟨-, ⟨hfull, hstack⟩ | ⟨b, hstack⟩⟩ := hc.stack
  · rw [hstack]
    exact hlen
  · have hne : s.stack.length ≠ d := by
      rintro rfl
      rw [s.stackFull_iff.mpr hd] at hfull
      cases hfull
    rw [hstack, List.length_append, List.length_singleton]
    omega
  · rw [hstack, List.length_append, List.length_singleton] at hlen
    omega

theorem Completes.keeps_inv (h : s.Inv) (hlo : 2 ≤ s.pc.toNat) (hhi : s.pc.toNat ≤ 0x1000) : t.Inv where
  memory := by
    obtain hmem | ⟨-, hmem⟩ := hc.memory
    · rw [hmem]
      exact h.memory
    · exact hmem h.memory
  pcRange := hc.pcRange h hlo hhi
  stackRange := hc.stackRange h hlo hhi
  stackDepth := hc.stackDepth h
  haltCause := by
    rw [hc.status_eq, hc.haltCause_eq]
    exact h.haltCause

end

theorem Effect.keeps_inv {i : Instr} {s t : State} (he : Effect i s t) (h : s.Inv) (hlo : 2 ≤ s.pc.toNat)
    (hhi : s.pc.toNat ≤ 0x1000) : t.Inv := by
  cases he with
  | completes hc => exact hc.keeps_inv h hlo hhi
  | halts c addr _ => exact h.halt c _

/-- Settles O54: an instruction keeps the invariant in the execute phase, where PC is from 2 to 0x1000, and the other events
write no field that it looks at. -/
theorem stepKeepsInv : Obligations.StepKeepsInv := by
  intro s t hinv hstep
  cases stepEffect_of_step hstep with
  | ignored => exact hinv.takeEvent
  | ticked | drawRequestCleared | soundRequestCleared =>
    have h := hinv.takeEvent
    exact ⟨h.memory, h.pcRange, h.stackRange, h.stackDepth, h.haltCause⟩
  | fetchFault inp info =>
    have h := hinv.takeEvent
    exact State.Inv.halt (s := { s.takeEvent with inputs := inp })
      ⟨h.memory, h.pcRange, h.stackRange, h.stackDepth, h.haltCause⟩ _ info
  | @unknown inp report hpc =>
    have h := hinv.atExecute hpc inp
    exact ⟨h.memory, h.pcRange, h.stackRange, h.stackDepth, h.haltCause⟩
  | @executed inp i _ hpc heffect =>
    have hexec := State.toNat_atExecute_pc hpc inp
    exact heffect.keeps_inv (hinv.atExecute hpc inp) (by omega) (by omega)

/-- Settles O52: the reset state has no entry of memory, no entry on the stack, and runs. -/
theorem resetMeetsInv : Obligations.ResetMeetsInv where
  memory := rfl
  pcRange := by decide
  stackRange := List.forall_mem_nil _
  stackDepth := nofun
  haltCause := nofun

/-! ## Init -/

theorem launchWellFormed_iff (c : Configuration) (font program : List Byte) :
    launchWellFormed c font program = true ↔
      c.stackDepth ≠ some 0 ∧ font.length = 80 ∧ program.length ≤ 3584 := by
  simp only [launchWellFormed, Configuration.wellFormed, fontWellFormed, imageWellFormed, Bool.and_eq_true, bne_iff_ne,
    beq_iff_eq, decide_eq_true_eq, and_assoc]
  rfl

theorem init_of_wellFormed {c : Configuration} {font program : List Byte} (es : List Event)
    (h : launchWellFormed c font program = true) :
    State.init c font program es =
      some { State.reset with cfg := c, mem := initMemory font program, events := es } :=
  if_pos h

theorem init_of_not_wellFormed {c : Configuration} {font program : List Byte} (es : List Event)
    (h : launchWellFormed c font program ≠ true) : State.init c font program es = none :=
  if_neg h

/-- The font lies in memory, whatever its bytes. -/
theorem wf_fontMemory {font : List Byte} (hfont : font.length = 80) : (Memory.writeBlock [] 0 font).wf = true :=
  Memory.wf_writeBlock rfl font (by rw [hfont]; decide)

theorem programBase_add_le {program : List Byte} (hprogram : program.length ≤ 3584) :
    programBase + program.length ≤ memSize := by
  unfold programBase memSize
  omega

/-- Settles O53: font and image lie in memory, and the rest of the state is that of the reset. -/
theorem initMeetsInv : Obligations.InitMeetsInv := by
  intro c font program es s hinit
  by_cases hlaunch : launchWellFormed c font program = true
  · obtain ⟨-, hfont, hprogram⟩ := (launchWellFormed_iff c font program).mp hlaunch
    cases (init_of_wellFormed es hlaunch).symm.trans hinit
    exact {
      memory := Memory.wf_writeBlock (wf_fontMemory hfont) program (programBase_add_le hprogram)
      pcRange := resetMeetsInv.pcRange
      stackRange := List.forall_mem_nil _
      stackDepth := fun _ _ => Nat.zero_le _
      haltCause := nofun }
  · cases (init_of_not_wellFormed es hlaunch).symm.trans hinit

theorem unlisted_of_le {a : Nat} (h : 80 ≤ a) : Memory.unlisted a = 0 :=
  List.getD_eq_default _ _ h

/-- Settles O55: the reads of the two blocks that Init stores, the image in front of the font. -/
theorem initLaysOutTheMachine : Obligations.InitLaysOutTheMachine := by
  intro c font program es hdepth hfont
  constructor
  · intro hlarge
    refine init_of_not_wellFormed es fun hlaunch => ?_
    obtain ⟨-, -, hprogram⟩ := (launchWellFormed_iff c font program).mp hlaunch
    omega
  · intro hprogram
    refine ⟨_, init_of_wellFormed es ((launchWellFormed_iff c font program).mpr ⟨hdepth, hfont, hprogram⟩), ?font, ?image,
      ?rest, rfl, ?registers, rfl, rfl, rfl, rfl, fun k _ => Framebuffer.cell_clear k, rfl, rfl, rfl, rfl, rfl⟩
    case font =>
      intro k hk
      have hbelow : k < programBase := by
        unfold programBase
        omega
      have hread := Memory.read_writeBlock_inside (m := []) rfl (a := 0) font (by rw [hfont]; decide) hk
      rw [Nat.zero_add] at hread
      exact (Memory.read_writeBlock_outside _ _ _ (.inl hbelow)).trans hread
    case image =>
      intro k hk
      exact Memory.read_writeBlock_inside (wf_fontMemory hfont) program (programBase_add_le hprogram) hk
    case rest =>
      intro a ha houtside
      calc Memory.read (initMemory font program) a
          = Memory.read (Memory.writeBlock [] 0 font) a := Memory.read_writeBlock_outside _ _ _ houtside
        _ = Memory.unlisted a := Memory.read_writeBlock_outside _ _ _ (.inr (by omega))
        _ = 0 := unlisted_of_le ha
    case registers =>
      intro k
      exact Vector.getElem_replicate ..

/-- Settles O56: the default FONT is what unlisted addresses read as, so that its stores list no cell. -/
theorem resetIsTheDefaultLaunch : Obligations.ResetIsTheDefaultLaunch := by
  have hmem : initMemory defaultFont [] = [] := by decide
  refine (init_of_wellFormed [] ((launchWellFormed_iff _ _ _).mpr ⟨by decide, by decide, by decide⟩)).trans ?_
  rw [hmem]
  rfl

end Sys2Proof.Machine
end

section
/-! What every instruction leaves alone, and when it halts the core (spec/10_state.md R32, spec/60_exceptions.md R173, R175). -/

open Sys2Proof.Claims

namespace Sys2Proof.Machine

/-- The writer that `b` names is ruled out. -/
theorem left_of_or_and_of_eq_false {p q : Prop} {b : Bool} (h : p ∨ b = true ∧ q) (hb : b = false) : p :=
  h.resolve_right fun hbq => absurd hbq.1 (ne_true_of_eq_false hb)

/-- Settles O47: a completed instruction writes what its `Completes` lists, a halting one the halt record alone. -/
theorem onlyListedWriters : Obligations.OnlyListedWriters := by
  intro i s t hexec
  cases effect_of_exec hexec with
  | completes hc =>
    refine ⟨hc.registers, hc.index, left_of_or_and_of_eq_false hc.pc, left_of_or_and_of_eq_false hc.memory,
      left_of_or_and_of_eq_false hc.screen, left_of_or_and_of_eq_false hc.stack, hc.delay, hc.sound, hc.keyTaken, ?_⟩
    rw [hc.frame]
    exact ⟨rfl, rfl, rfl, rfl, rfl, rfl⟩
  | halts c addr _ =>
    exact ⟨fun _ _ => rfl, fun _ => rfl, fun _ => rfl, fun _ => rfl, fun _ => ⟨rfl, rfl⟩, fun _ => rfl, fun _ => rfl,
      fun _ => rfl, fun _ => rfl, rfl, rfl, rfl, rfl, rfl, rfl⟩

/-- Settles O48: completing keeps the status, and the instructions that do not complete are the six. -/
theorem haltsArePreciseAndListed : Obligations.HaltsArePreciseAndListed := by
  intro i s t hexec hrun
  cases effect_of_exec hexec with
  | completes hc =>
    have hstatus : t.status = .running := hc.status_eq.trans hrun
    exact ⟨fun _ => hstatus, fun hhalted => nomatch hhalted.symm.trans hstatus⟩
  | halts c addr hcan =>
    obtain ⟨hpos, hle⟩ := code_pos_and_le c
    exact ⟨fun hcannot => absurd hcan (ne_true_of_eq_false hcannot), fun _ => ⟨rfl, hpos, hle, rfl, rfl⟩⟩

/-- Settles O46: the answers of `step_answers` and `exec_answers`. -/
theorem everyStepAnswersNext : Obligations.EveryStepAnswersNext := by
  refine ⟨fun s => ?_, fun i s => ?_⟩
  · obtain ⟨t, hstep, -⟩ := step_answers s
    exact ⟨t, hstep⟩
  · obtain ⟨t, hexec, -⟩ := exec_answers i s
    exact ⟨t, hexec⟩

/-! ## The request flags -/

/-- Only CLS and DRW write draw_req, and they set it (R20). -/
theorem Effect.keeps_drawReq {i : Instr} {s t : State} (he : Effect i s t) (h : s.drawReq = true) : t.drawReq = true := by
  cases he with
  | completes hc =>
    obtain ⟨-, hsame⟩ | ⟨-, hset⟩ := hc.screen
    · exact hsame.trans h
    · exact hset
  | halts => exact h

/-- No instruction writes sound_req (R20). -/
theorem Effect.soundReq_eq {i : Instr} {s t : State} (he : Effect i s t) : t.soundReq = s.soundReq := by
  cases he with
  | completes hc => rw [hc.frame]
  | halts => rfl

theorem StepEffect.keeps_drawReq {s t : State} (he : StepEffect s t) (h : s.drawReq = true)
    (hevent : s.nextEvent ≠ .clearDrawRequest) : t.drawReq = true := by
  have htake : s.takeEvent.drawReq = true := s.takeEvent_drawReq.trans h
  cases he with
  | drawRequestCleared hclear => exact absurd hclear hevent
  | executed _ heffect => exact heffect.keeps_drawReq htake
  | ignored | ticked | soundRequestCleared | fetchFault | unknown => exact htake

theorem StepEffect.keeps_soundReq {s t : State} (he : StepEffect s t) (h : s.soundReq = true)
    (hevent : s.nextEvent ≠ .clearSoundRequest) : t.soundReq = true := by
  have htake : s.takeEvent.soundReq = true := s.takeEvent_soundReq.trans h
  cases he with
  | soundRequestCleared hclear => exact absurd hclear hevent
  | ticked => rw [State.tick_soundReq, htake, Bool.true_or]
  | executed _ heffect => exact heffect.soundReq_eq.trans htake
  | ignored | drawRequestCleared | fetchFault | unknown => exact htake

/-- Settles O16: of the events, only its own clear event writes a flag to 0, and no instruction does. -/
theorem requestFlagsAreSticky : Obligations.RequestFlagsAreSticky := by
  intro s t hstep
  have heffect := stepEffect_of_step hstep
  exact ⟨heffect.keeps_drawReq, heffect.keeps_soundReq⟩

end Sys2Proof.Machine
end

section
/-! Runs of any length (spec/10_state.md R19, spec/60_exceptions.md R176, R183). -/

open Sys2Proof.Claims

namespace Sys2Proof.Machine

theorem coreRun_succ_of_step (M : Host.Core) (k : Nat) {s u : M.State} (hstep : M.step s = .next u) :
    M.run (k + 1) s = M.run k u := by
  rw [Host.Core.run, hstep]

theorem run_succ_of_step {s u : State} (k : Nat) (hstep : step s = .next u) :
    Host.Core.run core (k + 1) s = Host.Core.run core k u :=
  coreRun_succ_of_step core k hstep

/-! ## The configuration -/

theorem Effect.cfg_eq {i : Instr} {s t : State} (he : Effect i s t) : t.cfg = s.cfg := by
  cases he with
  | completes hc => exact hc.cfg_eq
  | halts => rfl

theorem StepEffect.cfg_eq {s t : State} (he : StepEffect s t) : t.cfg = s.cfg := by
  cases he with
  | executed _ heffect => exact heffect.cfg_eq.trans s.takeEvent_cfg
  | ignored | ticked | drawRequestCleared | soundRequestCleared | fetchFault | unknown => exact s.takeEvent_cfg

/-- Settles O51: by induction on the length of the run, each step keeping the configuration. -/
theorem configurationNeverChanges : Obligations.ConfigurationNeverChanges := by
  intro k
  induction k with
  | zero =>
    intro s t hrun
    cases hrun
    rfl
  | succ k ih =>
    intro s t hrun
    obtain ⟨u, hstep, heffect⟩ := step_answers s
    rw [run_succ_of_step k hstep] at hrun
    exact (ih u t hrun).trans heffect.cfg_eq

/-! ## The HALTED core -/

theorem sameCore_takeEvent (s : State) : sameCore s s.takeEvent := by
  unfold sameCore State.takeEvent
  split <;> rfl

theorem sameCore_trans {s t u : State} (hst : sameCore s t) (htu : sameCore t u) : sameCore s u :=
  htu.trans (congrArg (fun c : State => { c with
    events := u.events, draws := u.draws, inputs := u.inputs, unknownOp := u.unknownOp, keyTaken := u.keyTaken }) hst)

/-- Settles O12: by induction on the length of the run, each event being taken and no more. -/
theorem haltedCoreIgnoresEvents : Obligations.HaltedCoreIgnoresEvents := by
  intro k
  induction k with
  | zero => exact fun s _ => ⟨s, rfl, rfl⟩
  | succ k ih =>
    intro s hhalted
    obtain ⟨t, hrun, hsame⟩ := ih s.takeEvent (s.takeEvent_status.trans hhalted)
    exact ⟨t, (run_succ_of_step k (step_of_halted hhalted)).trans hrun, sameCore_trans (sameCore_takeEvent s) hsame⟩

/-! ## Ticks -/

theorem bne_zero_eq_decide (b : Byte) : (b != 0) = decide (0 < b.toNat) := by
  rw [Bool.eq_iff_iff, bne_iff_ne, decide_eq_true_eq, Nat.pos_iff_ne_zero, Ne, ← BitVec.toNat_inj]
  rfl

/-- Settles O14: by induction on the number of Ticks. A request raised by a later Tick needs ST nonzero then, so that the first
Tick had raised it already. -/
theorem timersReachZeroAndStay : Obligations.TimersReachZeroAndStay := by
  intro k
  induction k with
  | zero => exact fun s es _ hevents => ⟨s, rfl, rfl, rfl, by simp, hevents, rfl, rfl⟩
  | succ k ih =>
    intro s es hrun hevents
    have htape : s.events = .tick :: (List.replicate k .tick ++ es) := hevents
    have hrest : s.takeEvent.tick.events = List.replicate k .tick ++ es := by
      rw [State.tick_events, State.takeEvent_events, htape, List.tail_cons]
    obtain ⟨t, hruns, hdt, hst, hsound, hevents', hpc, hv⟩ :=
      ih s.takeEvent.tick es (s.takeEvent_status.trans hrun) hrest
    simp only [State.tick_dt, State.tick_st, State.tick_soundReq, State.tick_pc, State.tick_v, State.takeEvent_dt,
      State.takeEvent_st, State.takeEvent_soundReq, State.takeEvent_pc, State.takeEvent_v, toNat_countDown,
      bne_zero_eq_decide] at hdt hst hsound hpc hv
    refine ⟨t, (run_succ_of_step k (step_of_tick hrun (s.nextEvent_cons _ _ htape))).trans hruns, by omega, by omega, ?_,
      hevents', hpc, hv⟩
    rw [hsound, Bool.or_assoc, ← Bool.decide_or]
    congr 2
    rw [eq_iff_iff]
    omega

end Sys2Proof.Machine
end

section
/-! The events on a RUNNING core, one statement each (spec/00_scope.md R7, R8, spec/30_encoding.md R60, spec/60_exceptions.md R183,
R185). -/

open Sys2Proof.Claims

namespace Sys2Proof.Machine

/-- Settles O8: the Step comes to `exec` of the decoded instruction in the execute phase; with the event on the tape, taking it
leaves the rest of the tape and the counter as it was. -/
theorem stepRunsDecodedInstruction : Obligations.StepRunsDecodedInstruction := by
  intro s i hrun hpc hdecode
  have hany : ∀ inp, s.nextEvent = .step inp → step s = exec i (s.atExecute inp) :=
    fun inp hevent => step_eq_exec hrun hpc hevent hdecode
  refine ⟨fun inp es htape => ?_, fun inp hevent => ?_⟩
  · rw [hany inp (s.nextEvent_cons _ _ htape), State.atExecute, State.takeEvent, htape]
  · rw [hany inp hevent, State.atExecute_eq]

/-- Settles O11: FetchOutOfBounds writes the halt record alone. -/
theorem fetchPastMemoryHalts : Obligations.FetchPastMemoryHalts := by
  intro s inp hrun hpc hevent
  rw [step_of_fetch_past_memory hrun hpc hevent, State.takeEvent_eq s]
  rfl

/-- Settles O13: the Tick is `State.tick` on the state with the event taken. -/
theorem tickCountsDown : Obligations.TickCountsDown := by
  intro s hrun hevent
  refine ⟨_, step_of_tick hrun hevent, ?_, ?_, ?_, ?_⟩
  · rw [State.tick_dt, toNat_countDown, State.takeEvent_dt]
  · rw [State.tick_st, toNat_countDown, State.takeEvent_st]
  · rw [State.tick_soundReq, bne_zero_eq_decide, State.takeEvent_st, State.takeEvent_soundReq]
  · rw [State.takeEvent_eq s]
    rfl

/-- Settles O15: each clear event writes its own flag on the state with the event taken. -/
theorem clearEventsClearTheirFlag : Obligations.ClearEventsClearTheirFlag := by
  intro s hrun
  refine ⟨fun hevent => ?_, fun hevent => ?_⟩
  · rw [step_of_clearDrawRequest hrun hevent, State.takeEvent_eq s]
    rfl
  · rw [step_of_clearSoundRequest hrun hevent, State.takeEvent_eq s]
    rfl

/-- Taking the event ends the old strobes, and the Step's inputs overwrite the old ones (R8, R25). -/
theorem takeEvent_with_inputs_eq (s : State) (inp old : StepInputs) (u : Option UnknownReport) (k : Bool) :
    { State.takeEvent { s with inputs := old, unknownOp := u, keyTaken := k } with inputs := inp } =
      { s.takeEvent with inputs := inp } := by
  unfold State.takeEvent
  dsimp only
  split <;> rfl

/-- Settles O17: the two states agree once the event is taken and its inputs are on the ports. -/
theorem stepIgnoresOldPorts : Obligations.StepIgnoresOldPorts := by
  intro s inp old u k hrun hevent
  have hold : step { s with inputs := old, unknownOp := u, keyTaken := k } =
      runStep { State.takeEvent { s with inputs := old, unknownOp := u, keyTaken := k } with inputs := inp } :=
    step_eq_runStep (s := { s with inputs := old, unknownOp := u, keyTaken := k }) hrun hevent
  rw [hold, takeEvent_with_inputs_eq, step_eq_runStep hrun hevent]

/-! ## The two hangs -/

theorem exists_jpAddr_of_atSelfJump {s : State} (h : s.atSelfJump = true) :
    ∃ nnn, decodeWord s.fetchWord = some (.jpAddr nnn) ∧ zextAddr nnn = s.pc := by
  simp only [State.atSelfJump, Bool.and_eq_true] at h
  obtain ⟨-, hjump⟩ := h
  split at hjump
  next nnn hdecode => exact ⟨nnn, hdecode, eq_of_beq hjump⟩
  next => cases hjump

/-- The execute phase with PC put back is the core of before. -/
theorem sameCore_atExecute (s : State) (inp : StepInputs) : sameCore s { s.atExecute inp with pc := s.pc } := by
  rw [s.atExecute_eq inp]
  rfl

/-- Settles O45: either instruction puts PC back to its own address and writes nothing else. -/
theorem hangsLeaveTheCoreUnchanged : Obligations.HangsLeaveTheCoreUnchanged := by
  intro s inp hrun hpc hevent hhang
  refine ⟨{ s.atExecute inp with pc := s.pc }, ?_, sameCore_atExecute s inp⟩
  obtain hself | ⟨⟨x, hdecode⟩, hkey⟩ := hhang
  · obtain ⟨nnn, hdecode, hnnn⟩ := exists_jpAddr_of_atSelfJump hself
    rw [step_eq_exec hrun hpc hevent hdecode, ← hnnn]
    rfl
  · have hback : (s.atExecute inp).pc - 2 = s.pc := BitVec.add_sub_cancel s.pc 2
    calc step s
        = execLdVxK x (s.atExecute inp) := step_eq_exec hrun hpc hevent hdecode
      _ = .next { s.atExecute inp with pc := (s.atExecute inp).pc - 2 } := execLdVxK_of_none x hkey
      _ = .next { s.atExecute inp with pc := s.pc } := by rw [hback]

end Sys2Proof.Machine
end

section
/-! What an instruction reads of MODE and of the inputs (spec/10_state.md R22 to R24, spec/45_quirk_dispatch.md R160): every
instruction commutes with a change of those that it does not read. -/

open Sys2Proof.Claims

namespace Sys2Proof.Machine

/-- The same state in another mode and with other inputs on the ports. -/
def State.retune (s : State) (m : Mode) (inp : StepInputs) : State :=
  { s with cfg := { s.cfg with mode := m }, inputs := inp }

/-- An outcome with its next state changed. -/
def onNext (f : State → State) : Outcome → Outcome
  | .next s => .next (f s)
  | .fault r => .fault r
  | .refused r => .refused r

section
variable (s : State) (m : Mode) (inp : StepInputs)

theorem retune_skipIf (c : Bool) : (s.retune m inp).skipIf c = (s.skipIf c).retune m inp := by
  cases c <;> rfl

/-- The access range and the halt record depend on I and PC alone (R47, R172). -/
theorem withAccess_retune {w : Word} {len : Nat} {t t' : State} (ht : t' = t.retune m inp) :
    withAccess w len (s.retune m inp) t' = onNext (·.retune m inp) (withAccess w len s t) := by
  subst ht
  show (if inBounds s.i.toNat len then Host.Outcome.next (t.retune m inp) else _) = _
  unfold withAccess
  split <;> rfl

theorem execRet_retune : execRet (s.retune m inp) = onNext (·.retune m inp) (execRet s) := by
  obtain ⟨hstack, hpop⟩ | ⟨as, a, hstack, hpop⟩ := s.pop_cases
  · have hpop' : (s.retune m inp).pop = none := State.pop_nil _ hstack
    simp only [execRet, hpop, hpop']
    rfl
  · have hpop' : (s.retune m inp).pop = some (a, { s.retune m inp with stack := as }) := State.pop_concat _ as a hstack
    simp only [execRet, hpop, hpop']
    rfl

theorem execCallAddr_retune (nnn : Addr12) :
    execCallAddr nnn (s.retune m inp) = onNext (·.retune m inp) (execCallAddr nnn s) := by
  show (if s.stackFull then _ else _) = _
  unfold execCallAddr
  split <;> rfl

theorem setLogic_retune_inputs (x : Reg) (r : Byte) :
    (s.retune s.cfg.mode inp).setLogic x r = (s.setLogic x r).retune s.cfg.mode inp := by
  show (if qLogicVfReset s.cfg then _ else _) = _
  unfold State.setLogic
  split <;> rfl

theorem execLdVxK_retune (x : Reg) (hkey : inp.keyEvent = s.inputs.keyEvent) :
    execLdVxK x (s.retune m inp) = onNext (·.retune m inp) (execLdVxK x s) := by
  cases h : s.inputs.keyEvent with
  | none => rw [execLdVxK_of_none x h, execLdVxK_of_none (s := s.retune m inp) x (hkey.trans h)]; rfl
  | some key => rw [execLdVxK_of_some x h, execLdVxK_of_some (s := s.retune m inp) x (hkey.trans h)]; rfl

theorem keyHeld_retune (k : Byte) (hkeys : inp.keysHeld = s.inputs.keysHeld) :
    (s.retune m inp).keyHeld k = s.keyHeld k := by
  show (_ && inp.keysHeld.getLsbD _) = _
  rw [hkeys]
  rfl

end

/-- An instruction looks at MODE and at the inputs only where it is listed as their reader. -/
theorem exec_retune (i : Instr) (s : State) (m : Mode) (inp : StepInputs)
    (hmode : consultsMode i = true → m = s.cfg.mode)
    (hkeys : readsKeysHeld i = true → inp.keysHeld = s.inputs.keysHeld)
    (hkey : readsKeyEvent i = true → inp.keyEvent = s.inputs.keyEvent)
    (hrnd : readsRnd i = true → inp.rnd = s.inputs.rnd) :
    exec i (s.retune m inp) = onNext (·.retune m inp) (exec i s) := by
  cases i with
  | ret => exact execRet_retune s m inp
  | callAddr nnn => exact execCallAddr_retune s m inp nnn
  | seVxByte | sneVxByte | seVxVy | sneVxVy => exact congrArg Host.Outcome.next (retune_skipIf s m inp _)
  | orVxVy | andVxVy | xorVxVy =>
    obtain rfl := hmode rfl
    exact congrArg Host.Outcome.next (setLogic_retune_inputs s inp _ _)
  | shrVxVy | shlVxVy | jpV0Addr =>
    obtain rfl := hmode rfl
    rfl
  | drwVxVyN | ldMemVx | ldVxMem =>
    obtain rfl := hmode rfl
    exact withAccess_retune s s.cfg.mode inp rfl
  | ldBVx x => exact withAccess_retune s m inp rfl
  | rndVxByte x nn =>
    show Host.Outcome.next ((s.retune m inp).setV x (inp.rnd &&& nn)) = _
    rw [hrnd rfl]
    rfl
  | skpVx x =>
    show Host.Outcome.next ((s.retune m inp).skipIf ((s.retune m inp).keyHeld (s.getV x))) = _
    rw [keyHeld_retune s m inp _ (hkeys rfl), retune_skipIf]
    rfl
  | sknpVx x =>
    show Host.Outcome.next ((s.retune m inp).skipIf (!(s.retune m inp).keyHeld (s.getV x))) = _
    rw [keyHeld_retune s m inp _ (hkeys rfl), retune_skipIf]
    rfl
  | ldVxK x => exact execLdVxK_retune s m inp x (hkey rfl)
  | cls | jpAddr | ldVxByte | addVxByte | ldVxVy | addVxVy | subVxVy | subnVxVy | ldIAddr => rfl
  | ldVxDt | ldDtVx | ldStVx | addIVx | ldFVx => rfl

/-! ## The inputs -/

theorem Effect.inputs_eq {i : Instr} {s t : State} (he : Effect i s t) : t.inputs = s.inputs := by
  cases he with
  | completes hc => rw [hc.frame]
  | halts => rfl

theorem exec_with_inputs {i : Instr} {s t : State} (hexec : exec i s = .next t) (inp : StepInputs)
    (hkeys : readsKeysHeld i = true → inp.keysHeld = s.inputs.keysHeld)
    (hkey : readsKeyEvent i = true → inp.keyEvent = s.inputs.keyEvent)
    (hrnd : readsRnd i = true → inp.rnd = s.inputs.rnd) :
    exec i { s with inputs := inp } = .next { t with inputs := inp } := by
  have hmode : t.retune s.cfg.mode inp = { t with inputs := inp } := by
    rw [← (effect_of_exec hexec).cfg_eq]
    rfl
  calc exec i { s with inputs := inp }
      = onNext (·.retune s.cfg.mode inp) (exec i s) := exec_retune i s s.cfg.mode inp (fun _ => rfl) hkeys hkey hrnd
    _ = .next { t with inputs := inp } := by rw [hexec, ← hmode]; rfl

/-- Settles O50: `exec_retune` in the same mode, the inputs being kept by the instruction itself. -/
theorem inputsAreReadOnlyByTheirInstructions : Obligations.InputsAreReadOnlyByTheirInstructions := by
  intro i s t hexec
  have hno {b : Bool} {p : Prop} (hb : b = false) (h : b = true) : p := absurd h (ne_true_of_eq_false hb)
  rw [(effect_of_exec hexec).inputs_eq]
  exact ⟨fun a h => exec_with_inputs hexec _ (hno h) (fun _ => rfl) (fun _ => rfl),
    fun a h => exec_with_inputs hexec _ (fun _ => rfl) (hno h) (fun _ => rfl),
    fun a h => exec_with_inputs hexec _ (fun _ => rfl) (fun _ => rfl) (hno h)⟩

/-! ## MODE -/

section
variable (m : Mode) (s : State)

theorem exec_inMode {i : Instr} (hno : consultsMode i = false) : exec i (inMode m s) = onNext (inMode m) (exec i s) := by
  obtain ⟨t, hexec, heffect⟩ := exec_answers i s
  have hinputs : t.retune m s.inputs = inMode m t := by
    rw [← heffect.inputs_eq]
    rfl
  have hmode : consultsMode i = true → m = s.cfg.mode := fun h => absurd h (ne_true_of_eq_false hno)
  calc exec i (inMode m s)
      = onNext (·.retune m s.inputs) (exec i s) :=
        exec_retune i s m s.inputs hmode (fun _ => rfl) (fun _ => rfl) (fun _ => rfl)
    _ = onNext (inMode m) (exec i s) := by rw [hexec]; exact congrArg Host.Outcome.next hinputs

theorem nextEvent_inMode : (inMode m s).nextEvent = s.nextEvent := rfl

theorem takeEvent_inMode : (inMode m s).takeEvent = inMode m s.takeEvent := by
  cases h : s.events <;> simp [State.takeEvent, inMode, h]

theorem execWord_inMode (w : Word) (h : ∀ i, decodeWord w = some i → consultsMode i = false) :
    execWord w (inMode m s) = onNext (inMode m) (execWord w s) := by
  unfold execWord
  cases hdecode : decodeWord w with
  | none => rfl
  | some i => exact exec_inMode m s (h i hdecode)

theorem runStep_inMode (h : ∀ i, decodeWord s.fetchWord = some i → consultsMode i = false) :
    runStep (inMode m s) = onNext (inMode m) (runStep s) := by
  show (if lastFetch < s.pc.toNat then _ else execWord s.fetchWord (inMode m s.advance)) = _
  rw [execWord_inMode m s.advance s.fetchWord h]
  unfold runStep
  split <;> rfl

theorem runEvent_inMode (e : Event)
    (h : ∀ inp i, e = .step inp → decodeWord s.fetchWord = some i → consultsMode i = false) :
    runEvent e (inMode m s) = onNext (inMode m) (runEvent e s) := by
  cases e with
  | step inp => exact runStep_inMode m { s with inputs := inp } fun i => h inp i rfl
  | tick | clearDrawRequest | clearSoundRequest => rfl

end

/-- Settles O49: of the parts of a step only the execute phase looks at the configuration, and there `exec_retune` leaves the nine
instructions. -/
theorem modeMattersOnlyToQuirkInstructions : Obligations.ModeMattersOnlyToQuirkInstructions := by
  intro m s t hquirk hstep
  have hfetch : s.takeEvent.fetchWord = s.fetchWord := by simp only [State.fetchWord, State.takeEvent_mem, State.takeEvent_pc]
  cases hstatus : s.status with
  | halted =>
    cases (step_of_halted hstatus).symm.trans hstep
    exact (step_of_halted (s := inMode m s) hstatus).trans (congrArg _ (takeEvent_inMode m s))
  | running =>
    calc step (inMode m s)
        = runEvent s.nextEvent (inMode m s.takeEvent) := by
          rw [step_of_running (s := inMode m s) hstatus, nextEvent_inMode, takeEvent_inMode]
      _ = onNext (inMode m) (runEvent s.nextEvent s.takeEvent) :=
          runEvent_inMode m s.takeEvent s.nextEvent (hfetch.symm ▸ hquirk)
      _ = .next (inMode m t) := by rw [← step_of_running hstatus, hstep]; rfl

end Sys2Proof.Machine
end

section
/-! Calls, returns and JP V0 (spec/40_flow.md R80, R82, R87). -/

namespace Sys2Proof.Machine

theorem not_stackFull_iff (s : State) : ¬ s.stackFull = true ↔ s.cfg.stackDepth ≠ some s.stack.length :=
  not_congr s.stackFull_iff

/-- Settles O20: the two cases of CALL, by whether the stack is full. -/
theorem callPushesReturnAddress : Obligations.CallPushesReturnAddress := by
  intro nnn s
  refine ⟨fun hroom => ?_, fun hfull => ?_⟩
  · exact ⟨_, execCallAddr_of_not_full nnn ((not_stackFull_iff s).mpr hroom), rfl, toNat_zextAddr nnn, rfl⟩
  · exact execCallAddr_of_full nnn (s.stackFull_iff.mpr hfull)

/-- Settles O21: the two cases of RET, by whether the stack is empty. -/
theorem retPopsReturnAddress : Obligations.RetPopsReturnAddress :=
  fun _ => ⟨fun _ _ hstack => execRet_of_concat hstack, fun hstack => execRet_of_nil hstack⟩

/-- Settles O22: CALL's push is the newest entry, which RET takes off again. -/
theorem retUndoesCall : Obligations.RetUndoesCall :=
  fun nnn s hroom => ⟨{ s.push s.pc with pc := zextAddr nnn }, s,
    execCallAddr_of_not_full nnn ((not_stackFull_iff s).mpr hroom), execRet_of_concat rfl, rfl⟩

/-- The register that JP V0 adds is V0 in LEGACY alone (R162). -/
theorem State.jumpOffset_eq (s : State) (nnn : Addr12) :
    s.jumpOffset nnn = if s.cfg.mode = .legacy then s.getV 0 else s.getV (xOfNnn nnn) := by
  unfold State.jumpOffset qJumpUsesVx
  cases s.cfg.mode <;> rfl

theorem val_xOfNnn (nnn : Addr12) : (xOfNnn nnn).val = nnn.toNat / 256 := by
  show (nnn.extractLsb' 8 4).toNat = _
  rw [BitVec.extractLsb'_toNat, Nat.shiftRight_eq_div_pow]
  exact Nat.mod_eq_of_lt (Nat.div_lt_of_lt_mul nnn.isLt)

/-- Settles O24: the target is the sum of two numbers that a 16-bit PC holds, and the x field of the word is the top nibble of
nnn. -/
theorem jpV0AddsRegister : Obligations.JpV0AddsRegister := by
  intro nnn s
  have hx : (fieldsOf (encodeWord (.jpV0Addr nnn))).x = xOfNnn nnn := x_wordNNN 0xB#4 nnn
  rw [hx, ← s.jumpOffset_eq nnn]
  exact ⟨_, rfl, toNat_zextAddr_add_zextByte nnn _, val_xOfNnn nnn, rfl⟩

end Sys2Proof.Machine
end

section
/-! The logic instructions, VF as the destination of a flag writer, and index arithmetic (spec/41_alu.md R103 to R105, R112,
spec/42_index_memory.md R121, R122). -/

namespace Sys2Proof.Machine

theorem State.setLogic_frame (s : State) (x : Reg) (r : Byte) : s.setLogic x r = { s with v := (s.setLogic x r).v } := by
  unfold State.setLogic
  split <;> rfl

/-- What an instruction with the meaning `setLogic` leaves (R103 to R105, R165). -/
theorem exists_next_setLogic (s : State) (x : Reg) (r : Byte) {o : Outcome} (ho : o = .next (s.setLogic x r)) :
    ∃ t, o = .next t ∧
      (∀ k, t.getV k = if k = 15 ∧ s.cfg.logicVfReset.get s.cfg.mode = true then 0 else if k = x then r else s.getV k) ∧
      t = { s with v := t.v } := by
  refine ⟨_, ho, fun k => ?_, s.setLogic_frame x r⟩
  rw [State.getV_setLogic]
  exact if_congr and_comm rfl (if_congr eq_comm rfl rfl)

/-- Settles O27: each of the three is `setLogic` of its bitwise result. -/
theorem logicInstructions : Obligations.LogicInstructions := by
  intro x y s
  simp only [List.forall_mem_cons]
  exact ⟨exists_next_setLogic s x _ rfl, exists_next_setLogic s x _ rfl, exists_next_setLogic s x _ rfl,
    List.forall_mem_nil _⟩

/-- With VF as the destination only the flag is left of the two writes (R112, D10). -/
theorem exists_next_setWithFlag_vf (s : State) (r : Byte) (c : Bool) {o : Outcome}
    (ho : o = .next (s.setWithFlag 15 r (flagByte c))) :
    ∃ t, o = .next t ∧ t.getV 15 = (if c then 1 else 0) ∧ (∀ k, k ≠ 15 → t.getV k = s.getV k) ∧ t = { s with v := t.v } := by
  refine ⟨_, ho, ?_, fun k hk => ?_, rfl⟩
  · exact State.getV_setV_self _ vf (flagByte c)
  · simp [vf, hk, hk.symm]

/-- Settles O29: each of the five writes its flag last; the value that the shifts shift is R161's. -/
theorem flagWinsOverResult : Obligations.FlagWinsOverResult := by
  intro y s
  rw [← s.shiftSource_eq 15 y]
  simp only [List.forall_mem_cons]
  exact ⟨exists_next_setWithFlag_vf s _ _ rfl, exists_next_setWithFlag_vf s _ _ rfl, exists_next_setWithFlag_vf s _ _ rfl,
    exists_next_setWithFlag_vf s _ _ rfl, exists_next_setWithFlag_vf s _ _ rfl, List.forall_mem_nil _⟩

/-- Five times a byte is below 65536. -/
theorem toNat_glyphAddr (b : Byte) : (glyphAddr b).toNat = 5 * b.toNat := by
  have hb : b.toNat < 256 := b.isLt
  show (5#16 * zextByte b).toNat = _
  rw [BitVec.toNat_mul, toNat_zextByte]
  exact Nat.mod_eq_of_lt (by simp only [BitVec.toNat_ofNat]; omega)

/-- Settles O32: the sums of `toNat_add` and `toNat_glyphAddr`, written to I alone. -/
theorem indexArithmetic : Obligations.IndexArithmetic := by
  intro x s
  refine ⟨⟨_, rfl, ?_, rfl⟩, ⟨_, rfl, toNat_glyphAddr (s.getV x), rfl⟩⟩
  show (s.i + zextByte (s.getV x)).toNat = _
  rw [BitVec.toNat_add, toNat_zextByte]

end Sys2Proof.Machine
end

section
/-! The key skips (spec/44_keys_timers.md R150, R151). -/

namespace Sys2Proof.Machine

theorem State.keyHeld_iff (s : State) (k : Byte) :
    s.keyHeld k = true ↔ k.toNat ≤ 0xF ∧ s.inputs.keysHeld.getLsbD k.toNat = true := by
  rw [State.keyHeld, Bool.and_eq_true, decide_eq_true_eq]

/-- Settles O42: SKP skips on `keyHeld` and SKNP on its negation. -/
theorem keySkips : Obligations.KeySkips := by
  intro x s
  dsimp only
  rw [← s.keyHeld_iff]
  have hskp : exec (.skpVx x) s = .next (s.skipIf (s.keyHeld (s.getV x))) := rfl
  have hsknp : exec (.sknpVx x) s = .next (s.skipIf (!s.keyHeld (s.getV x))) := rfl
  rw [hskp, hsknp]
  refine ⟨fun hheld => ?_, fun hnot => ?_⟩
  · rw [hheld]
    exact ⟨rfl, rfl⟩
  · rw [Bool.eq_false_iff.mpr hnot]
    exact ⟨rfl, rfl⟩

end Sys2Proof.Machine
end

section
/-! Loads and stores at I (spec/20_memory.md R47, R53, spec/42_index_memory.md R123 to R125, R164). -/

open Sys2Proof.Claims

namespace Sys2Proof.Machine

/-! ## Inside the memory and past it -/

theorem withAccess_of_inBounds {w : Word} {len : Nat} {s t : State} (h : inBounds s.i.toNat len = true) :
    withAccess w len s t = .next t :=
  if_pos h

/-- A nonempty range that passes 0xFFF raises DataOutOfBounds (R47). -/
theorem withAccess_of_past_memory {w : Word} {len : Nat} {s t : State} (hlen : 0 < len)
    (hpast : 0xFFF < s.i.toNat + (len - 1)) :
    withAccess w len s t = .next (s.halt .dataOutOfBounds ⟨s.instrAddr, w, lowestOutOfRange s.i.toNat⟩) := by
  refine if_neg fun hin => ?_
  obtain hzero | hle := (inBounds_iff _ _).mp hin
  · omega
  · unfold memSize at hle
    omega

/-- Settles O36: each of the four is a `withAccess` of its own word and length. -/
theorem dataAccessPastMemoryHalts : Obligations.DataAccessPastMemoryHalts := by
  intro x y n s
  simp only [List.forall_mem_cons]
  exact ⟨withAccess_of_past_memory, withAccess_of_past_memory, withAccess_of_past_memory, withAccess_of_past_memory,
    List.forall_mem_nil _⟩

/-! ## LD B,Vx -/

theorem execLdBVx_of_le {s : State} (x : Reg) (h : s.i.toNat + 2 ≤ 0xFFF) :
    exec (.ldBVx x) s = .next (s.storeAtI (bcdDigits (s.getV x))) :=
  withAccess_of_inBounds ((inBounds_iff _ _).mpr (.inr (by unfold memSize; omega)))

/-- Settles O33: the three digits are read back from the block stored, and each of them fits in a byte. -/
theorem storeBcd : Obligations.StoreBcd := by
  intro x s hwf hi
  have hlen : (bcdDigits (s.getV x)).length = 3 := length_bcdDigits _
  have hb : (s.getV x).toNat < 256 := (s.getV x).isLt
  have hread {k : Nat} (hk : k < (bcdDigits (s.getV x)).length) :
      Memory.read (s.storeAtI (bcdDigits (s.getV x))).mem (s.i.toNat + k) = (bcdDigits (s.getV x))[k] :=
    Memory.read_writeBlock_inside hwf _ (by unfold memSize; omega) hk
  refine ⟨_, execLdBVx_of_le x hi, ?hundreds, ?tens, ?units, ?rest, rfl⟩
  case hundreds =>
    refine (congrArg BitVec.toNat (hread (k := 0) (by omega))).trans ((BitVec.toNat_ofNat _ _).trans ?_)
    exact Nat.mod_eq_of_lt (by omega)
  case tens =>
    refine (congrArg BitVec.toNat (hread (k := 1) (by omega))).trans ((BitVec.toNat_ofNat _ _).trans ?_)
    exact Nat.mod_eq_of_lt (by omega)
  case units =>
    refine (congrArg BitVec.toNat (hread (k := 2) (by omega))).trans ((BitVec.toNat_ofNat _ _).trans ?_)
    exact Nat.mod_eq_of_lt (by omega)
  case rest => exact fun a ha => Memory.read_writeBlock_outside _ _ _ (by omega)

/-! ## LD [I],Vx and LD Vx,[I] -/

theorem toNat_iAdvance (s : State) (x : Reg) : (iAdvance (qMemIInc s.cfg) x).toNat = iStep s x := by
  unfold iStep qMemIInc
  cases s.cfg.memIInc.get s.cfg.mode with
  | none => rfl
  | byOne => rfl
  | byCount =>
    have hx := x.isLt
    exact (BitVec.toNat_ofNat _ _).trans (Nat.mod_eq_of_lt (by omega))

/-- I moves by R164's step, modulo 65536. -/
theorem toNat_advanceI (s : State) (x : Reg) : (s.advanceI x).i.toNat = (s.i.toNat + iStep s x) % 65536 := by
  rw [State.advanceI_i, BitVec.toNat_add, toNat_iAdvance]

section
variable {s : State} {x : Reg} (hi : s.i.toNat + x.val ≤ 0xFFF)
include hi

theorem inBounds_registers : inBounds s.i.toNat (x.val + 1) = true :=
  (inBounds_iff _ _).mpr (.inr (by unfold memSize; omega))

theorem execLdMemVx_of_le : exec (.ldMemVx x) s = .next ((s.storeAtI (s.regsUpTo x)).advanceI x) :=
  withAccess_of_inBounds (inBounds_registers hi)

theorem execLdVxMem_of_le :
    exec (.ldVxMem x) s = .next (State.advanceI { s with v := loadBlock s.v 0 (s.bytesAtI (x.val + 1)) } x) :=
  withAccess_of_inBounds (inBounds_registers hi)

/-- The registers stored are read back from I upward. -/
theorem read_storeAtI_regsUpTo (hwf : s.mem.wf = true) {k : Reg} (hk : k ≤ x) :
    Memory.read (s.storeAtI (s.regsUpTo x)).mem (s.i.toNat + k.val) = s.getV k := by
  have hlen : (s.regsUpTo x).length = x.val + 1 := s.length_regsUpTo x
  have hk' : k.val < (s.regsUpTo x).length := by
    rw [hlen]
    exact Nat.lt_succ_of_le hk
  rw [State.storeAtI_mem, Memory.read_writeBlock_inside hwf _ (by unfold memSize; omega) hk', State.getElem_regsUpTo]

end

/-- Settles O34: the block of the registers, read back inside and kept outside. -/
theorem storeRegisters : Obligations.StoreRegisters := by
  intro x s hwf hi
  have hlen : (s.regsUpTo x).length = x.val + 1 := s.length_regsUpTo x
  exact ⟨_, execLdMemVx_of_le hi, fun k hk => read_storeAtI_regsUpTo hi hwf hk,
    fun a ha => Memory.read_writeBlock_outside _ _ _ (by omega), toNat_advanceI _ x, rfl⟩

/-- Settles O35: the block load writes the registers up to x alone. -/
theorem loadRegisters : Obligations.LoadRegisters := by
  intro x s hi
  refine ⟨_, execLdVxMem_of_le hi, fun k hk => ?_, fun k hk => ?_, toNat_advanceI _ x, rfl⟩
  · exact (getV_loadBlock s x k).trans (if_pos hk)
  · exact (getV_loadBlock s x k).trans (if_neg (not_le_of_gt hk))

/-- Settles O37: the load reads at I the registers that the store left there. -/
theorem loadAfterStoreRestores : Obligations.LoadAfterStoreRestores := by
  intro x s w hwf hi
  refine ⟨_, _, execLdMemVx_of_le hi,
    execLdVxMem_of_le (s := { (s.storeAtI (s.regsUpTo x)).advanceI x with i := s.i, v := w }) hi, fun k hk => ?_⟩
  exact (getV_loadBlock _ x k).trans ((if_pos hk).trans (read_storeAtI_regsUpTo hi hwf hk))

/-- Settles O38: the fetch reads the first two registers stored. -/
theorem storedCodeIsFetched : Obligations.StoredCodeIsFetched := by
  intro x s hwf hx hi
  have hlow : (1 : Reg) ≤ x := hx
  have hfirst := read_storeAtI_regsUpTo hi hwf (Fin.zero_le x)
  have hsecond := read_storeAtI_regsUpTo hi hwf hlow
  exact ⟨_, execLdMemVx_of_le hi, congr (congrArg wordOfBytes hfirst) hsecond⟩

end Sys2Proof.Machine
end

section
/-! DRW (spec/43_display.md R141, R142, spec/45_quirk_dispatch.md R163): the cells under a sprite as one list without repetition,
so that drawing flips each of them once and a collision is one of them that was on. -/

open Sys2Proof.Claims

namespace Sys2Proof.Machine

/-! ## Flipping a list of cells -/

/-- One cell flipped; it is a collision when it was on (R141). -/
def Canvas.flip (k : Canvas) (j : Nat) : Canvas :=
  ⟨k.fb.toggle j, k.collision || k.fb.cell j⟩

theorem cell_foldl_flip {cells : List Nat} (hlt : ∀ j ∈ cells, j < 2048) (hnodup : cells.Nodup) (k : Canvas) (c : Nat) :
    (cells.foldl Canvas.flip k).fb.cell c = (k.fb.cell c ^^ decide (c ∈ cells)) := by
  induction cells generalizing k with
  | nil => simp
  | cons j js ih =>
    obtain ⟨hj, hjs⟩ := List.forall_mem_cons.mp hlt
    obtain ⟨hnot, hrest⟩ := List.nodup_cons.mp hnodup
    rw [List.foldl_cons, ih hjs hrest, Canvas.flip, Framebuffer.cell_toggle _ hj]
    by_cases h : j = c
    · subst h
      simp [hnot]
    · simp [h, Ne.symm h]

theorem collision_foldl_flip {cells : List Nat} (hlt : ∀ j ∈ cells, j < 2048) (hnodup : cells.Nodup) (k : Canvas) :
    (cells.foldl Canvas.flip k).collision = true ↔ k.collision = true ∨ ∃ j ∈ cells, k.fb.cell j = true := by
  induction cells generalizing k with
  | nil => simp
  | cons j js ih =>
    obtain ⟨hj, hjs⟩ := List.forall_mem_cons.mp hlt
    obtain ⟨hnot, hrest⟩ := List.nodup_cons.mp hnodup
    have hkept : ∀ a ∈ js, (k.fb.toggle j).cell a = k.fb.cell a := fun a ha => by
      rw [Framebuffer.cell_toggle _ hj, if_neg (ne_of_mem_of_not_mem ha hnot).symm]
    rw [List.foldl_cons, ih hjs hrest, List.exists_mem_cons_iff, ← or_assoc, Canvas.flip, Bool.or_eq_true]
    exact or_congr_right (exists_congr fun a => and_congr_right fun ha => by rw [hkept a ha])

/-! ## The cells under a sprite -/

/-- The cell that column `c` of a sprite row flips: none at a 0 bit and where the pixel is clipped. -/
def litCell (wrap : Bool) (x0 py : Nat) (b : Byte) (c : Nat) : Option Nat :=
  if spriteBit b c then drawCell wrap (x0 + c) py else none

/-- The cells that the columns `c`, `c + 1`, ... of a sprite row flip, `m` of them. -/
def rowCells (wrap : Bool) (x0 py : Nat) (b : Byte) (c m : Nat) : List Nat :=
  (List.range' c m).filterMap (litCell wrap x0 py b)

/-- The cells that the rows of a sprite flip, from screen row `py` downward. -/
def spriteCells (wrap : Bool) (x0 : Nat) : Nat → List Byte → List Nat
  | _, [] => []
  | py, b :: bs => rowCells wrap x0 py b 0 8 ++ spriteCells wrap x0 (py + 1) bs

theorem drawColumns_eq_foldl (wrap : Bool) (x0 py : Nat) (b : Byte) (c m : Nat) (k : Canvas) :
    drawColumns wrap x0 py b c m k = (rowCells wrap x0 py b c m).foldl Canvas.flip k := by
  induction m generalizing c k with
  | zero => rfl
  | succ m ih =>
    rw [drawColumns, ih, rowCells, rowCells, List.range'_succ, List.filterMap_cons, litCell]
    cases spriteBit b c <;> cases drawCell wrap (x0 + c) py <;> rfl

theorem drawRows_eq_foldl (wrap : Bool) (x0 py : Nat) (bs : List Byte) (k : Canvas) :
    drawRows wrap x0 py bs k = (spriteCells wrap x0 py bs).foldl Canvas.flip k := by
  induction bs generalizing py k with
  | nil => rfl
  | cons b bs ih => rw [drawRows, ih, drawColumns_eq_foldl, spriteCells, List.foldl_append]

theorem litCell_eq_some_iff {wrap : Bool} {x0 py : Nat} {b : Byte} {c j : Nat} :
    litCell wrap x0 py b c = some j ↔ spriteBit b c = true ∧ drawCell wrap (x0 + c) py = some j := by
  unfold litCell
  cases spriteBit b c <;> simp

theorem mem_rowCells {wrap : Bool} {x0 py : Nat} {b : Byte} {j : Nat} :
    j ∈ rowCells wrap x0 py b 0 8 ↔ ∃ c < 8, litCell wrap x0 py b c = some j := by
  simp [rowCells, List.mem_filterMap]

/-- A cell under a sprite is under a 1 bit of a row `r` and a column `c`. -/
theorem mem_spriteCells {wrap : Bool} {x0 py : Nat} {bs : List Byte} {j : Nat} :
    j ∈ spriteCells wrap x0 py bs ↔
      ∃ (r : Nat) (hr : r < bs.length), ∃ c < 8, litCell wrap x0 (py + r) bs[r] c = some j := by
  induction bs generalizing py with
  | nil => simp [spriteCells]
  | cons b bs ih =>
    rw [spriteCells, List.mem_append, mem_rowCells, ih]
    constructor
    · rintro (hrow | ⟨r, hr, hrow⟩)
      · exact ⟨0, Nat.succ_pos _, hrow⟩
      · exact ⟨r + 1, Nat.succ_lt_succ hr, by simpa [Nat.add_assoc, Nat.add_comm 1 r] using hrow⟩
    · rintro ⟨_ | r, hr, hrow⟩
      · exact .inl hrow
      · exact .inr ⟨r, Nat.lt_of_succ_lt_succ hr, by simpa [Nat.add_assoc, Nat.add_comm 1 r] using hrow⟩

theorem spriteCells_lt {wrap : Bool} {x0 py : Nat} {bs : List Byte} : ∀ j ∈ spriteCells wrap x0 py bs, j < 2048 := by
  intro j hj
  obtain ⟨r, hr, c, hc, hlit⟩ := mem_spriteCells.mp hj
  exact drawCell_lt (litCell_eq_some_iff.mp hlit).2

/-- Two points that fall on one cell differ by whole screens. -/
theorem drawCell_inj {wrap : Bool} {px py px' py' j : Nat} (h : drawCell wrap px py = some j)
    (h' : drawCell wrap px' py' = some j) : px % 64 = px' % 64 ∧ py % 32 = py' % 32 := by
  unfold drawCell at h h'
  cases wrap
  · simp only [Bool.false_eq_true, if_false, Option.ite_none_left_eq_some, Option.some.injEq] at h h'
    omega
  · simp only [if_true, Option.some.injEq] at h h'
    omega

theorem nodup_rowCells (wrap : Bool) (x0 py : Nat) (b : Byte) : (rowCells wrap x0 py b 0 8).Nodup := by
  refine List.pairwise_filterMap.mpr (List.Pairwise.imp_of_mem ?_ (List.nodup_range' (s := 0) (n := 8)))
  rintro c c' hc hc' hne j hj j' hj' rfl
  obtain ⟨-, hj⟩ := litCell_eq_some_iff.mp hj
  obtain ⟨-, hj'⟩ := litCell_eq_some_iff.mp hj'
  obtain ⟨hx, -⟩ := drawCell_inj hj hj'
  simp only [List.mem_range'_1] at hc hc'
  omega

/-- Within 8 columns and 32 rows no cell is met twice. -/
theorem nodup_spriteCells (wrap : Bool) (x0 py : Nat) {bs : List Byte} (hlen : bs.length ≤ 32) :
    (spriteCells wrap x0 py bs).Nodup := by
  induction bs generalizing py with
  | nil => exact List.nodup_nil
  | cons b bs ih =>
    rw [List.length_cons] at hlen
    refine List.nodup_append.mpr ⟨nodup_rowCells wrap x0 py b, ih (py + 1) (by omega), ?_⟩
    rintro j hj j' hj' rfl
    obtain ⟨c, hc, hlit⟩ := mem_rowCells.mp hj
    obtain ⟨r, hr, c', hc', hlit'⟩ := mem_spriteCells.mp hj'
    obtain ⟨-, hy⟩ := drawCell_inj (litCell_eq_some_iff.mp hlit).2 (litCell_eq_some_iff.mp hlit').2
    omega

theorem drawCell_eq_some_iff {wrap : Bool} {a b px py : Nat} (hpx : px < 64) (hpy : py < 32) :
    drawCell wrap a b = some (px + 64 * py) ↔
      if wrap = true then a % 64 = px ∧ b % 32 = py else a = px ∧ b = py := by
  unfold drawCell
  cases wrap
  · simp only [Bool.false_eq_true, if_false, Option.ite_none_left_eq_some, Option.some.injEq]
    omega
  · simp only [if_true, Option.some.injEq]
    omega

/-! ## DRW -/

/-- The cells that DRW Vx,Vy,n flips from `s`. -/
def State.drawnCells (s : State) (x y : Reg) (n : Nibble) : List Nat :=
  spriteCells (qDrawWrap s.cfg) (s.spriteOrigin x y).1 (s.spriteOrigin x y).2 (s.bytesAtI n.toNat)

section
variable (s : State) (x y : Reg) (n : Nibble)

theorem drawnCells_lt : ∀ j ∈ s.drawnCells x y n, j < 2048 :=
  spriteCells_lt

theorem nodup_drawnCells : (s.drawnCells x y n).Nodup := by
  refine nodup_spriteCells _ _ _ ?_
  rw [State.bytesAtI, Memory.length_readBlock]
  exact n.isLt.le.trans (by decide)

theorem cell_drawn (c : Nat) : (s.drawn x y n).fb.cell c = (s.fb.cell c ^^ decide (c ∈ s.drawnCells x y n)) := by
  rw [State.drawn, drawRows_eq_foldl]
  exact cell_foldl_flip (drawnCells_lt s x y n) (nodup_drawnCells s x y n) _ c

theorem collision_drawn_iff :
    (s.drawn x y n).collision = true ↔ ∃ j ∈ s.drawnCells x y n, s.fb.cell j = true := by
  rw [State.drawn, drawRows_eq_foldl]
  refine (collision_foldl_flip (drawnCells_lt s x y n) (nodup_drawnCells s x y n) _).trans ?_
  exact or_iff_right Bool.false_ne_true

/-- Q_DRAW_WRAP is on in XOCHIP alone (R163). -/
theorem qDrawWrap_iff (c : Configuration) : qDrawWrap c = true ↔ c.mode = .xochip := by
  unfold qDrawWrap
  cases c.mode <;> decide

/-- The cells flipped are the pixels under the sprite. -/
theorem mem_drawnCells_iff {px py : Nat} (hpx : px < 64) (hpy : py < 32) :
    px + 64 * py ∈ s.drawnCells x y n ↔ underSprite s x y n px py := by
  unfold State.drawnCells underSprite
  rw [mem_spriteCells]
  simp only [litCell_eq_some_iff, drawCell_eq_some_iff hpx hpy, qDrawWrap_iff, spriteBit, State.bytesAtI,
    Memory.getElem_readBlock, Memory.length_readBlock, State.spriteOrigin]
  constructor
  · rintro ⟨r, hr, c, hc, hbit, hat⟩
    exact ⟨r, c, hr, hc, hbit, hat⟩
  · rintro ⟨r, c, hr, hc, hbit, hat⟩
    exact ⟨r, hr, c, hc, hbit, hat⟩

theorem execDrwVxVyN_of_le (h : n = 0 ∨ s.i.toNat + (n.toNat - 1) ≤ 0xFFF) :
    exec (.drwVxVyN x y n) s =
      .next (State.setV { s with fb := (s.drawn x y n).fb, drawReq := true } vf
        (flagByte (s.drawn x y n).collision)) := by
  refine withAccess_of_inBounds ((inBounds_iff _ _).mpr ?_)
  obtain rfl | hle := h
  · exact .inl rfl
  · unfold memSize
    omega

end

/-- Every cell number is a column and a row of the screen. -/
theorem exists_pixel_of_lt {j : Nat} (h : j < 2048) : ∃ px py, px < 64 ∧ py < 32 ∧ j = px + 64 * py :=
  ⟨j % 64, j / 64, by omega, by omega, by omega⟩

/-- Settles O40: the pixels under the sprite are the cells of `drawnCells`, and the collision is one of them that was on. -/
theorem drwFlipsThePixelsUnderTheSprite : Obligations.DrwFlipsThePixelsUnderTheSprite := by
  intro x y n s hin
  have hflag {c : Bool} (hc : (s.drawn x y n).collision = c) :
      (State.setV { s with fb := (s.drawn x y n).fb, drawReq := true } vf
        (flagByte (s.drawn x y n).collision)).getV 15 = flagByte c := by
    rw [hc]
    exact State.getV_setV_self _ vf _
  refine ⟨_, execDrwVxVyN_of_le s x y n hin, ?pixels, ?hit, ?miss, fun k hk => State.getV_setV_of_ne _ _ hk, rfl, rfl⟩
  case pixels =>
    intro px py hpx hpy
    have hcell := cell_drawn s x y n (px + 64 * py)
    rw [← mem_drawnCells_iff s x y n hpx hpy]
    refine ⟨fun hunder => hcell.trans ?_, fun hnot => hcell.trans ?_⟩
    · rw [decide_eq_true hunder, Bool.xor_true]
    · rw [decide_eq_false hnot, Bool.xor_false]
  case hit =>
    rintro ⟨px, py, hpx, hpy, hunder, hon⟩
    exact hflag ((collision_drawn_iff s x y n).mpr ⟨_, (mem_drawnCells_iff s x y n hpx hpy).mpr hunder, hon⟩)
  case miss =>
    intro hoff
    refine hflag (Bool.eq_false_iff.mpr fun hcollision => ?_)
    obtain ⟨j, hj, hon⟩ := (collision_drawn_iff s x y n).mp hcollision
    obtain ⟨px, py, hpx, hpy, rfl⟩ := exists_pixel_of_lt (drawnCells_lt s x y n j hj)
    rw [hoff px py hpx hpy ((mem_drawnCells_iff s x y n hpx hpy).mp hj)] at hon
    cases hon

/-- A framebuffer is its 2048 cells (R17). -/
theorem framebuffer_ext {fb fb' : Framebuffer} (h : ∀ c, fb.cell c = fb'.cell c) : fb = fb' := by
  refine Vector.ext fun row hrow => BitVec.eq_of_getLsbD_eq fun col hcol => ?_
  have hdiv : (col + 64 * row) / 64 = row := by omega
  have hmod : (col + 64 * row) % 64 = col := by omega
  have hcell := h (col + 64 * row)
  simpa [Framebuffer.cell, Vector.getD, hdiv, hmod, hrow] using hcell

/-- Settles O41: the second DRW finds the same registers, I, memory and mode, so that it flips the same cells back. -/
theorem drawingTwiceRestores : Obligations.DrawingTwiceRestores := by
  intro x y n s hin
  refine ⟨_, _, execDrwVxVyN_of_le s x y n hin, execDrwVxVyN_of_le _ x y n hin, framebuffer_ext fun c => ?_⟩
  refine (cell_drawn _ x y n c).trans ?_
  show ((s.drawn x y n).fb.cell c ^^ decide (c ∈ s.drawnCells x y n)) = s.fb.cell c
  rw [cell_drawn, Bool.xor_assoc, Bool.xor_self, Bool.xor_false]

end Sys2Proof.Machine
end
